-- ==== Sys2Proof/Word.lean ====
section
/-! DEFINITION. The word types of the CRC-16 framing block (00_scope.md R16): u8, u16 and byte sequences. -/

namespace Sys2Proof

/-- An unsigned 8-bit value (R16). -/
abbrev Byte := BitVec 8

/-- An unsigned 16-bit value (R16): a CRC, or the working register of the CRC unit. -/
abbrev Word := BitVec 16

/-- A packet: one transfer on the link (R18), byte 0 first. The empty list is the zero-length packet of R84. -/
abbrev Packet := List Byte

/-- One transaction on the command port (R82): the 8-bit code, then the operand bytes. -/
abbrev Transaction := List Byte

end Sys2Proof
end

