-- ==== Sys2Proof/Config.lean ====
section
/-! DEFINITION. The parameters of the block (00_scope.md R9 to R13), their defaults, and the free values the spec leaves open. -/

namespace Sys2Proof

/-- `MSG_MAX`: the largest message length and the size of each message buffer (R12). -/
def msgMax : Nat := 255

/-- `CRC_VARIANT` (R9): one variant of the parameterised CRC-16 model of R100. -/
structure CrcVariant where
  poly   : Word
  init   : Word
  refin  : Bool
  refout : Bool
  xorout : Word
  deriving DecidableEq, Repr

/-- The default variant, CRC-16/ARC (R9). -/
def CrcVariant.arc : CrcVariant :=
  { poly := 0x8005#16, init := 0x0000#16, refin := true, refout := true, xorout := 0x0000#16 }

/-- The parameters R22 lists: fixed for a whole run, written by no step. -/
structure Params where
  /-- `P`, the negotiated packet size (R10). -/
  p        : Nat
  /-- `P_MAX`, the largest packet either path can hold (R11). -/
  pMax     : Nat
  /-- `CRC_VARIANT` (R9) of the TX side and of the CRC unit beside it (R227, log 9). -/
  crc      : CrcVariant
  /-- `CRC_VARIANT` (R9) of the RX side. R101 and R243 ask that it be the TX side's; R252 says what happens where it is not. -/
  rxCrc    : CrcVariant
  /-- `MSG_TABLE` (R13): message opcode and required message length, opcodes strictly rising. -/
  msgTable : List (Byte × Nat)
  deriving DecidableEq, Repr

/-- The default `MSG_TABLE` (R13, R79). -/
def defaultMsgTable : List (Byte × Nat) := [(0x00#8, 1), (0x01#8, 130), (0x02#8, 1), (0x03#8, 1)]

/-- The defaults of R9, R11 and R13. R10 gives `P` no default: 64 is the source's one example value
(DESIGN CHOICE, log 1). -/
def Params.default : Params :=
  { p := 64, pMax := 64, crc := CrcVariant.arc, rxCrc := CrcVariant.arc, msgTable := defaultMsgTable }

/-- `MSG_TABLE[op]`, or none where `op` is outside the map's domain (R13, R192). -/
def tableLength : List (Byte × Nat) → Byte → Option Nat
  | [], _ => none
  | (k, n) :: rest, op => if k = op then some n else tableLength rest op

/-- The keys of a finite map stand in strictly rising order, so equal maps are equal data. -/
def tableRising : List (Byte × Nat) → Bool
  | [] => true
  | [_] => true
  | (a, _) :: (b, n) :: rest => decide (a.toNat < b.toNat) && tableRising ((b, n) :: rest)

/-- What R10 and R13 require of the parameters: `1 <= P <= P_MAX`, and the table is a map. The two sides' variants may differ
(R252). -/
def Params.wf (c : Params) : Bool :=
  decide (1 ≤ c.p) && decide (c.p ≤ c.pMax) && tableRising c.msgTable

/-- FREE VALUE (R44 "unspecified (any value)", log 6): what `TXBUF[offset]` reads as while nothing has written it,
after the given number of hardware resets. -/
opaque Config.txbufUnspecified : Nat → Nat → Byte

/-- FREE VALUE (R44 "unspecified (any value)", log 6): what `RXBUF[offset]` reads as while nothing has written it,
after the given number of hardware resets. -/
opaque Config.rxbufUnspecified : Nat → Nat → Byte

end Sys2Proof
end

