-- ==== Sys2Proof/Syntax.lean ====
section
/-! DEFINITION. The instructions of the block: the rows of spec/opcode_table.json (30_encoding.md R70 to R85).
The table's four namespaces over the first byte are separate (R77, R79, R81, R82); the port an item arrives on says which one
is meant. -/

namespace Sys2Proof

/-- Where an encoded item arrives, which selects its namespace (R77, R76, R79, R82). -/
inductive Port where
  /-- A packet on `OUTQ`, decoded by the RX engine (R77, R84). -/
  | outLink
  /-- A packet on `INQ`, decoded by the TX engine (R76, R130). -/
  | inLink
  /-- A complete message in `RXBUF` (R79, R192). -/
  | message
  /-- A transaction on the command port (R82). -/
  | command
  deriving DecidableEq, Repr

/-- A message by its opcode in the table of R79. The payload is everything after the opcode byte. -/
inductive Message where
  | dfu (payload : List Byte)
  | writePage (payload : List Byte)
  | activateLayout (payload : List Byte)
  | deactivateLayout (payload : List Byte)
  | unknown (opcode : Byte) (payload : List Byte)
  deriving DecidableEq, Repr

/-- One constructor per mnemonic of spec/opcode_table.json; the rows that share a mnemonic differ only in the opcode byte, which is
then an operand. START has two constructors, one for each of its two classes of R84; RESP has two, for the two
cases of R130. -/
inductive Instr where
  /-- PING packet (R72, R151); the bytes after the opcode are ignored (R84). -/
  | pktPing (ignored : List Byte)
  /-- START packet of at least 4 bytes (R73, R84). -/
  | pktStart (totalLen : Byte) (crc : Word) (chunk : List Byte)
  /-- START_SHORT: opcode 0x02 and fewer than 4 bytes in all (R84, R154). -/
  | pktStartShort (rest : List Byte)
  /-- CONT packet (R74). -/
  | pktCont (chunk : List Byte)
  /-- RESET packet (R75, R159); the bytes after the opcode are ignored (R84). -/
  | pktReset (ignored : List Byte)
  /-- A packet with an unassigned opcode (R77, R163). -/
  | pktUnassigned (opcode : Byte) (payload : List Byte)
  /-- The zero-length packet (R84, R150). -/
  | pktEmpty
  /-- A response of at least two bytes (R76, R130). -/
  | resp (byte0 status : Byte) (ignored : List Byte)
  /-- A response of fewer than two bytes (R130, R214). -/
  | respShort (bytes : List Byte)
  /-- Dfu message (R197). -/
  | msgDfu (payload : List Byte)
  /-- WritePage message (R80, R198). -/
  | msgWritePage (payload : List Byte)
  /-- ActivateLayout message (R199). -/
  | msgActivateLayout (payload : List Byte)
  /-- DeactivateLayout message (R200). -/
  | msgDeactivateLayout (payload : List Byte)
  /-- A message whose opcode R79 does not list (R192). -/
  | msgUnknown (opcode : Byte) (payload : List Byte)
  /-- PING command (R129). -/
  | cmdPing
  /-- SEND command (R122, R123); `L` is the length of `m`. -/
  | cmdSend (m : List Byte)
  /-- RESET command (R131). -/
  | cmdReset
  /-- CRC_CLEAR command (R102). -/
  | cmdCrcClear
  /-- CRC_FEED command (R103). -/
  | cmdCrcFeed (b : Byte)
  /-- CRC_READ command (R104). -/
  | cmdCrcRead
  deriving DecidableEq, Repr

/-- A message as the instruction its opcode names. -/
def Message.toInstr : Message → Instr
  | .dfu payload => .msgDfu payload
  | .writePage payload => .msgWritePage payload
  | .activateLayout payload => .msgActivateLayout payload
  | .deactivateLayout payload => .msgDeactivateLayout payload
  | .unknown opcode payload => .msgUnknown opcode payload

/-- The port each instruction arrives on. -/
def Instr.port : Instr → Port
  | .pktPing _ | .pktStart _ _ _ | .pktStartShort _ | .pktCont _ | .pktReset _ | .pktUnassigned _ _ | .pktEmpty => .outLink
  | .resp _ _ _ | .respShort _ => .inLink
  | .msgDfu _ | .msgWritePage _ | .msgActivateLayout _ | .msgDeactivateLayout _ | .msgUnknown _ _ => .message
  | .cmdPing | .cmdSend _ | .cmdReset | .cmdCrcClear | .cmdCrcFeed _ | .cmdCrcRead => .command

/-- Why a decoder rejects bytes. The packet decoders reject nothing (R84). -/
inductive DecodeError where
  /-- The command port: a code R82 does not list (R85, R120). -/
  | unknownCommand (code : Byte)
  /-- The command port: no code at all, or operand bytes other than those R82 gives the code (log 4). -/
  | malformedCommand (transaction : Transaction)
  /-- A message has at least its opcode byte (R18, R78). -/
  | emptyMessage
  /-- A message has at most 255 bytes (R12, R78). -/
  | messageTooLong (len : Nat)
  deriving DecidableEq, Repr

end Sys2Proof
end

