-- ==== Sys2Proof/WellFormed.lean ====
section
/-! DEFINITION. When an instruction is one the spec's encodings can carry (30_encoding.md R77, R78, R79, R84). -/

namespace Sys2Proof

/-- Opcode bytes R77 leaves unassigned. -/
def unassignedPacketOpcode (op : Byte) : Bool :=
  op == 0x01#8 || decide (0x05 ≤ op.toNat)

/-- Opcode bytes R79 lists no message for. -/
def unknownMessageOpcode (op : Byte) : Bool := decide (0x04 ≤ op.toNat)

/-- A message's payload leaves room for its opcode byte within 255 bytes (R12, R78). -/
def messagePayloadFits (payload : List Byte) : Bool := decide (payload.length + 1 ≤ msgMax)

/-- The checks, one for each constructor. SEND is well-formed at every length, since the host may present any (R122). -/
def Instr.wf : Instr → Bool
  | .pktPing _ => true
  | .pktStart _ _ _ => true
  | .pktStartShort rest => decide (rest.length ≤ 2)
  | .pktCont _ => true
  | .pktReset _ => true
  | .pktUnassigned op _ => unassignedPacketOpcode op
  | .pktEmpty => true
  | .resp _ _ _ => true
  | .respShort bytes => decide (bytes.length ≤ 1)
  | .msgDfu payload => messagePayloadFits payload
  | .msgWritePage payload => messagePayloadFits payload
  | .msgActivateLayout payload => messagePayloadFits payload
  | .msgDeactivateLayout payload => messagePayloadFits payload
  | .msgUnknown op payload => unknownMessageOpcode op && messagePayloadFits payload
  | .cmdPing => true
  | .cmdSend _ => true
  | .cmdReset => true
  | .cmdCrcClear => true
  | .cmdCrcFeed _ => true
  | .cmdCrcRead => true

end Sys2Proof
end

