-- ==== Sys2Proof/Decode.lean ====
section
/-! DEFINITION. The four decoders (30_encoding.md R76, R77, R79, R82 to R85), total on any bytes and rejecting by name, and after
them the encoder, written from the same tables. -/

namespace Sys2Proof

/-- `le16` (R17): low byte first. -/
def le16 (v : Word) : List Byte := [v.extractLsb' 0 8, v.extractLsb' 8 8]

/-- `from_le16` (R17, R50, R83). -/
def fromLe16 (b0 b1 : Byte) : Word := b0.setWidth 16 ||| (b1.setWidth 16 <<< 8)

/-! ### Packets on OUTQ -/

/-- What follows the opcode of a Start packet: with three bytes or more a START, with fewer a START_SHORT (R83, R84). -/
def decodeStart : List Byte → Instr
  | totalLen :: crcLo :: crcHi :: chunk => .pktStart totalLen (fromLe16 crcLo crcHi) chunk
  | rest => .pktStartShort rest

/-- The RX decoder (R77, R84): every byte sequence has exactly one class. -/
def decodePacket : Packet → Instr
  | [] => .pktEmpty
  | op :: rest =>
    if op = 0x00#8 then .pktPing rest
    else if op = 0x02#8 then decodeStart rest
    else if op = 0x03#8 then .pktCont rest
    else if op = 0x04#8 then .pktReset rest
    else .pktUnassigned op rest

/-! ### Packets on INQ -/

/-- The response decoder (R76, R83, R130): byte 1 is the status, the rest is ignored. -/
def decodeResponse : Packet → Instr
  | byte0 :: status :: ignored => .resp byte0 status ignored
  | bytes => .respShort bytes

/-! ### Messages -/

/-- A message by its opcode (R79, R81). -/
def messageOf (op : Byte) (payload : List Byte) : Message :=
  if op = 0x00#8 then .dfu payload
  else if op = 0x01#8 then .writePage payload
  else if op = 0x02#8 then .activateLayout payload
  else if op = 0x03#8 then .deactivateLayout payload
  else .unknown op payload

/-- The message decoder (R78, R79): 1 to 255 bytes, the opcode first. -/
def decodeMessage : List Byte → Except DecodeError Message
  | [] => .error .emptyMessage
  | op :: payload =>
    if payload.length + 1 ≤ msgMax then .ok (messageOf op payload)
    else .error (.messageTooLong (payload.length + 1))

/-! ### Commands -/

/-- A command whose operands R82 gives as "none". -/
def decodeNoOperands (code : Byte) (operands : List Byte) (i : Instr) : Except DecodeError Instr :=
  match operands with
  | [] => .ok i
  | _ :: _ => .error (.malformedCommand (code :: operands))

/-- CRC_FEED's operand: one byte (R82, R103). -/
def decodeFeed (code : Byte) (operands : List Byte) : Except DecodeError Instr :=
  match operands with
  | [b] => .ok (.cmdCrcFeed b)
  | _ => .error (.malformedCommand (code :: operands))

/-- The command port's decoder (R82, R120). SEND's message is every byte after the code, and `L` is how many they are (R122). -/
def decodeCommand : Transaction → Except DecodeError Instr
  | [] => .error (.malformedCommand [])
  | code :: operands =>
    if code = 0x00#8 then decodeNoOperands code operands .cmdPing
    else if code = 0x02#8 then .ok (.cmdSend operands)
    else if code = 0x04#8 then decodeNoOperands code operands .cmdReset
    else if code = 0x10#8 then decodeNoOperands code operands .cmdCrcClear
    else if code = 0x11#8 then decodeFeed code operands
    else if code = 0x12#8 then decodeNoOperands code operands .cmdCrcRead
    else .error (.unknownCommand code)

/-- The decoder of each port. -/
def decode : Port → List Byte → Except DecodeError Instr
  | .outLink, bytes => .ok (decodePacket bytes)
  | .inLink, bytes => .ok (decodeResponse bytes)
  | .message, bytes => (decodeMessage bytes).map Message.toInstr
  | .command, bytes => decodeCommand bytes

/-! ### The encoder -/

/-- The bytes of an instruction on its port (R72 to R76, R78 to R80, R82). -/
def encode : Instr → List Byte
  | .pktPing ignored => 0x00#8 :: ignored
  | .pktStart totalLen crc chunk => 0x02#8 :: totalLen :: (le16 crc ++ chunk)
  | .pktStartShort rest => 0x02#8 :: rest
  | .pktCont chunk => 0x03#8 :: chunk
  | .pktReset ignored => 0x04#8 :: ignored
  | .pktUnassigned op payload => op :: payload
  | .pktEmpty => []
  | .resp byte0 status ignored => byte0 :: status :: ignored
  | .respShort bytes => bytes
  | .msgDfu payload => 0x00#8 :: payload
  | .msgWritePage payload => 0x01#8 :: payload
  | .msgActivateLayout payload => 0x02#8 :: payload
  | .msgDeactivateLayout payload => 0x03#8 :: payload
  | .msgUnknown op payload => op :: payload
  | .cmdPing => [0x00#8]
  | .cmdSend m => 0x02#8 :: m
  | .cmdReset => [0x04#8]
  | .cmdCrcClear => [0x10#8]
  | .cmdCrcFeed b => [0x11#8, b]
  | .cmdCrcRead => [0x12#8]

/-! ### Words of the opcode table -/

/-- The bytes of a table word, the first byte in bits 7..0. -/
def tableBytes (nbits w : Nat) : List Byte :=
  (List.range ((nbits + 7) / 8)).map fun k => BitVec.ofNat 8 (w >>> (8 * k))

/-- A first byte that R82 lists as a command code. -/
def isCommandCode (code : Byte) : Bool :=
  code == 0x00#8 || code == 0x02#8 || code == 0x04#8 || code == 0x10#8 || code == 0x11#8 || code == 0x12#8

/-- The port a bare table word is read on (DESIGN CHOICE, log 12): one byte value stands in up to four namespaces
(R81) and a word does not say which, so a command code is read as the command and anything else as a packet on `OUTQ`. -/
def tablePort : List Byte → Port
  | [] => .outLink
  | b :: _ => if isCommandCode b then .command else .outLink

/-- The operand byte the table gives no bits: CRC_FEED's `b`, all of whose bits are then 0. -/
def padOperands : List Byte → List Byte
  | [b] => if b = 0x11#8 then [b, 0x00#8] else [b]
  | bytes => bytes

/-- The transaction or packet a table word stands for. -/
def tableItem (nbits w : Nat) : List Byte := padOperands (tableBytes nbits w)

/-- The instruction the decoder reads from a table word. -/
def decodeTableWord (nbits w : Nat) : Option Instr :=
  match decode (tablePort (tableItem nbits w)) (tableItem nbits w) with
  | .ok i => some i
  | .error _ => none

end Sys2Proof
end

