-- ==== Sys2Proof/Machine/State.lean ====
section
/-! DEFINITION. The state of the system (10_state.md R20 to R46), the reasons a step can stop, and the state after reset (R44). -/

namespace Sys2Proof.Machine

/-- A message buffer (R25, R32): the bytes written since reset, as (offset, byte) cells with strictly rising offsets.
An offset that is not listed holds a byte nothing has written (R45). -/
abbrev Buffer := List Host.Cell

/-- `TX_STATE` (R24). -/
inductive TxState where
  | idle
  | sending
  | await
  deriving DecidableEq, Repr

/-- `RX_STATE` (R31). -/
inductive RxState where
  | idle
  | receiving
  | executing
  deriving DecidableEq, Repr

/-- `TX_ERR` (R29): the four legal codes 0 to 3. -/
inductive TxErr where
  | none
  | overflow
  | empty
  | shortResponse
  deriving DecidableEq, Repr

/-- Whose step is taken next, with the input the step takes from outside the block (R14, R15). -/
inductive Turn where
  /-- The host presents its next command at the command port (R120). -/
  | host
  /-- The TX engine: an emission (R126, R127) or the response step (R130). -/
  | tx
  /-- The link moves the response slot into `INQ` (R57). -/
  | link
  /-- The RX engine takes a packet (R150). -/
  | rx
  /-- The executor completes with result `r`, a byte of its own choice (R194). -/
  | executor (r : Byte)
  /-- The test environment puts a packet on `OUTQ` (R56). -/
  | injectOut (pkt : Packet)
  /-- The test environment puts a packet on `INQ` (R133). -/
  | injectIn (pkt : Packet)
  /-- Hardware reset (R240). -/
  | hardwareReset
  deriving DecidableEq, Repr

/-- The state of the whole system: one TX engine, one RX engine, one CRC unit, the link, and what the outside has yet to do. -/
structure State where
  /-- `P`, `P_MAX`, each side's `CRC_VARIANT` (R252), `MSG_TABLE` (R22); no step writes them. -/
  params        : Params
  /-- `CRC_REG` (R23). -/
  crcReg        : Word
  /-- `TX_STATE` (R24). -/
  txState       : TxState
  /-- `TXBUF` (R25). -/
  txbuf         : Buffer
  /-- `TX_LEN` (R26), 0..255. -/
  txLen         : Byte
  /-- `TX_POS` (R27). -/
  txPos         : Nat
  /-- `TX_STARTED` (R27). -/
  txStarted     : Bool
  /-- `TX_CRC` (R28). -/
  txCrc         : Word
  /-- `TX_ERR` (R29). -/
  txErr         : TxErr
  /-- `TX_STATUS` (R30). -/
  txStatus      : Byte
  /-- `TX_STATUS_VALID` (R30). -/
  txStatusValid : Bool
  /-- `RX_STATE` (R31). -/
  rxState       : RxState
  /-- `RXBUF` (R32). -/
  rxbuf         : Buffer
  /-- `RX_TOTAL` (R33), the `totalLen` byte. -/
  rxTotal       : Byte
  /-- `RX_COUNT` (R34). -/
  rxCount       : Nat
  /-- `RX_CRC_EXP` (R35). -/
  rxCrcExp      : Word
  /-- `RX_LAST` (R36). -/
  rxLast        : Byte
  /-- `RX_BUSY_HIT` (R37). -/
  rxBusyHit     : Bool
  /-- `RESP_VALID` (R41). -/
  respValid     : Bool
  /-- `RESP[0]` and `RESP[1]` (R41). -/
  resp          : Byte × Byte
  /-- `OUTQ` (R42, R56), head first. -/
  outq          : List Packet
  /-- `INQ` (R42, R56), head first. -/
  inq           : List Packet
  /-- The model's own (log 3): the commands the host has yet to have accepted, next first. -/
  cmdq          : List Transaction
  /-- The model's own (log 5): the value the last accepted CRC_READ returned (R104). -/
  cmdReturn     : Option Word
  /-- The model's own (log 2): the turns to come, next first. -/
  schedule      : List Turn
  /-- The model's own (log 6): how many hardware resets there have been. -/
  resets        : Nat
  deriving DecidableEq, Repr

/-- Reasons a step stops with a fault. There is none: "No rule of the block produces a fault that stops it" (R210). -/
inductive Fault where
  deriving DecidableEq, Repr

/-- Reasons a step is refused (R210, "The model gives no meaning to the input"). -/
inductive Refusal where
  /-- An instruction with no meaning in this model; raised by no arm of exec. Safe. -/
  | notModelled (mnemonic : String)
  /-- A command code R82 does not list (R85, R120); raised by the host's turn. Safe: "toward unprovable" (R120). -/
  | unknownCommand (code : Byte)
  /-- A transaction without a code, or with operand bytes other than those R82 gives its code (log 4); raised by the
  host's turn. Safe: nothing can be proved of a run that presents one. -/
  | malformedCommand (transaction : Transaction)
  /-- A packet longer than `P_MAX` offered to the link (R164, R18); raised by an environment turn. Safe. -/
  | packetTooLong (len : Nat)
  deriving DecidableEq, Repr

/-- The state after reset with the given parameters (R44): every register at the value of R44's table. `RESP` is 00 00
where R44 says unspecified (DESIGN CHOICE, log 7). -/
def State.resetWith (c : Params) : State :=
  { params := c
    crcReg := c.crc.init
    txState := .idle
    txbuf := []
    txLen := 0#8
    txPos := 0
    txStarted := false
    txCrc := 0#16
    txErr := .none
    txStatus := 0#8
    txStatusValid := false
    rxState := .idle
    rxbuf := []
    rxTotal := 0#8
    rxCount := 0
    rxCrcExp := 0#16
    rxLast := 0#8
    rxBusyHit := false
    respValid := false
    resp := (0#8, 0#8)
    outq := []
    inq := []
    cmdq := []
    cmdReturn := none
    schedule := []
    resets := 0 }

/-- The machine right after reset, with the spec's default parameters (R9, R11, R13) and `P` = 64 (log 1). -/
def State.reset : State := State.resetWith Params.default

end Sys2Proof.Machine
end

