-- ==== Sys2Proof/Machine/Ops.lean ====
section
/-! DEFINITION. The shared operations over the buffers, the link queues and the error registers (00_scope.md R17, 20_memory.md,
60_exceptions.md R211, R221). -/

namespace Sys2Proof.Machine

/-- What a step answers. -/
abbrev Result := Host.Outcome State Fault Refusal

/-! ### Message buffers -/

/-- The byte written at an offset, or none where nothing has been written since reset (R45). -/
def bufLookup : Buffer → Nat → Option Byte
  | [], _ => none
  | (a, b) :: rest, x => if a = x then some b else bufLookup rest x

/-- Write one byte, keeping the offsets strictly rising. -/
def bufStore : Buffer → Nat → Byte → Buffer
  | [], x, v => [(x, v)]
  | (a, b) :: rest, x, v =>
    if x < a then (x, v) :: (a, b) :: rest
    else if x = a then (x, v) :: rest
    else (a, b) :: bufStore rest x v

/-- `BufWrite(buf, i, s)` (R17). -/
def bufWrite : Buffer → Nat → List Byte → Buffer
  | buf, _, [] => buf
  | buf, i, v :: rest => bufWrite (bufStore buf i v) (i + 1) rest

/-- The offsets of a buffer are strictly rising. -/
def bufRising : Buffer → Bool
  | [] => true
  | [_] => true
  | (a, _) :: (b, v) :: rest => decide (a < b) && bufRising ((b, v) :: rest)

/-- Every offset is one of `0..MSG_MAX-1` (R52). -/
def bufInRange (buf : Buffer) : Bool := buf.all fun cell => decide (cell.1 < msgMax)

/-- The canonical form of a buffer. -/
def Buffer.wf (buf : Buffer) : Bool := bufRising buf && bufInRange buf

/-- The first `n` offsets of a buffer have all been written (R45). -/
def bufWritten (buf : Buffer) (n : Nat) : Bool := (List.range n).all fun a => (bufLookup buf a).isSome

/-- `TXBUF[a]` as a read sees it: an unwritten byte is a free value (R44, log 6). -/
def txByte (s : State) (a : Nat) : Byte := (bufLookup s.txbuf a).getD (Config.txbufUnspecified s.resets a)

/-- `RXBUF[a]` as a read sees it: an unwritten byte is a free value (R44, log 6). -/
def rxByte (s : State) (a : Nat) : Byte := (bufLookup s.rxbuf a).getD (Config.rxbufUnspecified s.resets a)

/-- `BufRead(buf, i, n)` (R17), given how one byte is read. -/
def bufRead (byteAt : Nat → Byte) : Nat → Nat → List Byte
  | _, 0 => []
  | i, n + 1 => byteAt i :: bufRead byteAt (i + 1) n

/-- `BufRead(TXBUF, i, n)`. -/
def txRead (s : State) (i n : Nat) : List Byte := bufRead (txByte s) i n

/-- `BufRead(RXBUF, i, n)`. -/
def rxRead (s : State) (i n : Nat) : List Byte := bufRead (rxByte s) i n

/-! ### Link queues -/

/-- `Emit(OUTQ, pkt)` (R17, R56). -/
def State.emitOut (s : State) (pkt : Packet) : State := { s with outq := s.outq ++ [pkt] }

/-- `Emit(INQ, pkt)` (R17, R56). -/
def State.emitIn (s : State) (pkt : Packet) : State := { s with inq := s.inq ++ [pkt] }

/-! ### Recording an error: the block's "trap entry" (R221). There is no return from it (R222). -/

/-- The TX side records an outcome; nothing else is saved and nothing moves (R29, R211, R221). -/
def State.txRecord (s : State) (e : TxErr) : State := { s with txErr := e }

/-- The RX side records the outcome of a message attempt and is idle (R36, R211, R221). -/
def State.rxRecord (s : State) (code : Byte) : State := { s with rxState := .idle, rxLast := code }

/-! ### Holds -/

/-- A command is accepted only when `TX_STATE = TX_IDLE`; otherwise it is held and nothing changes (R121). -/
def whenTxIdle (s : State) (effect : State → State) : Result :=
  if s.txState = .idle then .next (effect s) else .next s

end Sys2Proof.Machine
end

