-- ==== Sys2Proof/Machine/Flags.lean ====
section
/-! DEFINITION. Status and error codes (10_state.md R29, R38, R39): the block's only flags. -/

namespace Sys2Proof.Machine

/-! ### Status codes (R39) -/

/-- Status 0, Idle. -/
def stIdle : Byte := 0#8
/-- Status 1, UnexpectedContError (R157). -/
def stUnexpectedCont : Byte := 1#8
/-- Status 2, CrcError (R161). -/
def stCrcError : Byte := 2#8
/-- Status 3, ReceivingMessage (R38). -/
def stReceiving : Byte := 3#8
/-- Status 4, Executing (R38). -/
def stExecuting : Byte := 4#8
/-- Status 6, MessageError (R154, R163, R192). -/
def stMessageError : Byte := 6#8
/-- Status 7, BusyError (R158, R194). -/
def stBusyError : Byte := 7#8
/-- Status 8, WrongMessageError (R192). -/
def stWrongMessage : Byte := 8#8

/-- The u8 code of `TX_ERR` (R29). -/
def txErrCode : TxErr → Byte
  | .none => 0#8
  | .overflow => 1#8
  | .empty => 2#8
  | .shortResponse => 3#8

/-- `reported_status()` (R38). -/
def reportedStatus (s : State) : Byte :=
  match s.rxState with
  | .receiving => stReceiving
  | .executing => stExecuting
  | .idle => s.rxLast

/-- What an executor completion with result `r` records (R194): the executor's code wins over BusyError. -/
def completionStatus (r : Byte) (busyHit : Bool) : Byte :=
  if r ≠ 0#8 then r else if busyHit then stBusyError else stIdle

/-- What the host can observe (R46, R228): `TX_STATE`, `TX_ERR`, `TX_STATUS`, `TX_STATUS_VALID`, the value CRC_READ returned, and the
packets on the link. R228's "only" does not name `TX_STATUS_VALID`, which R46 lets the host read: R46 is followed (DESIGN CHOICE,
log 21). -/
structure HostView where
  txState       : TxState
  txErr         : Byte
  txStatus      : Byte
  txStatusValid : Bool
  crcRead       : Option Word
  outq          : List Packet
  inq           : List Packet
  deriving DecidableEq, Repr

/-- The host's view of a state. -/
def hostView (s : State) : HostView :=
  { txState := s.txState, txErr := txErrCode s.txErr, txStatus := s.txStatus, txStatusValid := s.txStatusValid,
    crcRead := s.cmdReturn, outq := s.outq, inq := s.inq }

end Sys2Proof.Machine
end

