-- ==== Sys2Proof/Machine/Operands.lean ====
section
/-! DEFINITION. Field assembly and the operand forms of the packets and messages (30_encoding.md R73, R74, R80, R83), and how a chunk
is stored (43_rx_reassembler.md R155). -/

namespace Sys2Proof.Machine

/-! ### WritePage (R80, R83) -/

/-- `M[1]` of a WritePage message, from the bytes after its opcode. -/
def pageIndex (payload : List Byte) : Option Byte := payload.head?

/-- `M[2:130]` of a WritePage message, from the bytes after its opcode. -/
def pageBytes (payload : List Byte) : List Byte := (payload.drop 1).take 128

/-! ### The message being sent (R25, R126, R127) -/

/-- `TXBUF[0:TX_LEN]`. -/
def txMessage (s : State) : List Byte := txRead s 0 s.txLen.toNat

/-- How many message bytes the Start packet carries: `min(TX_LEN, P - 4)` (R126). -/
def startCount (s : State) : Nat := min s.txLen.toNat (s.params.p - 4)

/-- The Start packet of R126. -/
def startPacket (s : State) : Packet :=
  [0x02#8, s.txLen, s.txCrc.extractLsb' 0 8, s.txCrc.extractLsb' 8 8] ++ txRead s 0 (startCount s)

/-- How many message bytes the next Cont packet carries: `min(P - 1, TX_LEN - TX_POS)` (R127). -/
def contCount (s : State) : Nat := min (s.params.p - 1) (s.txLen.toNat - s.txPos)

/-- The Cont packet of R127. -/
def contPacket (s : State) : Packet := 0x03#8 :: txRead s s.txPos (contCount s)

/-! ### The message being received (R32 to R35, R155) -/

/-- `RXBUF[0:RX_TOTAL]`. -/
def rxMessage (s : State) : List Byte := rxRead s 0 s.rxTotal.toNat

/-- How many bytes of a chunk are stored: `min(len(chunk), RX_TOTAL - RX_COUNT)` (R155). -/
def storeCount (s : State) (chunk : List Byte) : Nat := min chunk.length (s.rxTotal.toNat - s.rxCount)

/-- `append(chunk)` (R155); what lies beyond the announced length is ignored as padding. -/
def State.appendChunk (s : State) (chunk : List Byte) : State :=
  { s with
    rxbuf := bufWrite s.rxbuf s.rxCount (chunk.take (storeCount s chunk))
    rxCount := s.rxCount + storeCount s chunk }

/-- The first three writes of an accepted Start (R153). -/
def State.beginMessage (s : State) (totalLen : Byte) (crc : Word) : State :=
  { s with rxTotal := totalLen, rxCrcExp := crc, rxCount := 0 }

/-- The executor port (R40): the message on offer, while one is. -/
def executorPort (s : State) : Option (List Byte) :=
  if s.rxState = .executing then some (rxMessage s) else none

end Sys2Proof.Machine
end

