-- ==== Sys2Proof/Machine/Agents.lean ====
section
/-! DEFINITION. The steps that are no row of the opcode table: packet emission (R126, R127), the response link step (R57), the
executor's completion (R194), the environment's injections (R56, R164) and hardware reset (R240). -/

namespace Sys2Proof.Machine

/-- `if TX_POS = TX_LEN then TX_STATE <- TX_IDLE` (R126, R127). -/
def State.finishSend (s : State) : State :=
  { s with txState := if s.txPos = s.txLen.toNat then .idle else s.txState }

/-- Emit Start (R126). -/
def emitStart (s : State) : State :=
  ({ s.emitOut (startPacket s) with txPos := startCount s, txStarted := true }).finishSend

/-- Emit Cont (R127). -/
def emitCont (s : State) : State :=
  ({ s.emitOut (contPacket s) with txPos := s.txPos + contCount s }).finishSend

/-- The emission step of a TX engine in `TX_SENDING` (R126, R127). -/
def emitNext (s : State) : State := if s.txStarted then emitCont s else emitStart s

/-- The response link step (R57); held while `RESP_VALID = 0`. Under `P = 1` the two-byte response (R76) is longer than R70 lets an
emitted packet be, and under `P_MAX = 1` longer than R11 and R18 let any packet be; the step is taken all the same, as R57's guard has
it (DESIGN CHOICE, log 20). -/
def linkStep (s : State) : State :=
  if s.respValid then { s.emitIn [s.resp.1, s.resp.2] with respValid := false } else s

/-- The executor's completion with result `r` (R194); not enabled outside `RX_EXECUTING`. -/
def executorStep (r : Byte) (s : State) : State :=
  if s.rxState = .executing then
    { s.rxRecord (completionStatus r s.rxBusyHit) with rxBusyHit := false }
  else s

/-- The environment puts a packet on `OUTQ` (R56); one longer than `P_MAX` is refused (R164). -/
def injectOut (pkt : Packet) (s : State) : Result :=
  if pkt.length ≤ s.params.pMax then .next (s.emitOut pkt) else .refused (.packetTooLong pkt.length)

/-- The environment puts a packet on `INQ` (R133); `P_MAX` bounds a packet on either path (R11, R18, log 11). -/
def injectIn (pkt : Packet) (s : State) : Result :=
  if pkt.length ≤ s.params.pMax then .next (s.emitIn pkt) else .refused (.packetTooLong pkt.length)

/-- Hardware reset (R240): R44's values again. The parameters (R22), the host's waiting commands and the schedule are not
the block's registers and stay (log 8). -/
def hardwareReset (s : State) : State :=
  { State.resetWith s.params with cmdq := s.cmdq, schedule := s.schedule, resets := s.resets + 1 }

end Sys2Proof.Machine
end

