-- ==== Sys2Proof/Machine/Crc.lean ====
section
/-! DEFINITION. The CRC-16 function (41_crc16.md R100, R101, R106). -/

namespace Sys2Proof.Machine

/-- `reflect8` (R100): bits 7..0 reversed. -/
def reflect8 (b : Byte) : Byte := b.reverse

/-- `reflect16` (R100): bits 15..0 reversed. -/
def reflect16 (v : Word) : Word := v.reverse

/-- One of the eight repetitions of `crc_step` (R100). -/
def crcShift (poly reg : Word) : Word :=
  if reg.getLsbD 15 then (reg <<< 1) ^^^ poly else reg <<< 1

/-- `n` repetitions. -/
def crcShifts (poly : Word) : Nat → Word → Word
  | 0, reg => reg
  | n + 1, reg => crcShifts poly n (crcShift poly reg)

/-- `d` of `crc_step` (R100). -/
def crcInput (v : CrcVariant) (b : Byte) : Byte := if v.refin then reflect8 b else b

/-- `crc_step` (R100). -/
def crcStep (v : CrcVariant) (reg : Word) (b : Byte) : Word :=
  crcShifts v.poly 8 (reg ^^^ ((crcInput v b).setWidth 16 <<< 8))

/-- `crc_out` (R100). -/
def crcOut (v : CrcVariant) (reg : Word) : Word :=
  (if v.refout then reflect16 reg else reg) ^^^ v.xorout

/-- `crc16` (R100, R101), `s[0]` first. -/
def crc16 (v : CrcVariant) (bytes : List Byte) : Word :=
  crcOut v (bytes.foldl (crcStep v) v.init)

/-! ### The reflected byte loop of R106, for the default variant. The engines do not use it. -/

/-- One of the eight repetitions of the reflected loop (R106). -/
def reflectedShift (c : Word) : Word :=
  if c.getLsbD 0 then (c >>> 1) ^^^ 0xA001#16 else c >>> 1

/-- `n` repetitions. -/
def reflectedShifts : Nat → Word → Word
  | 0, c => c
  | n + 1, c => reflectedShifts n (reflectedShift c)

/-- One byte of the reflected loop (R106). -/
def reflectedStep (c : Word) (b : Byte) : Word := reflectedShifts 8 (c ^^^ b.setWidth 16)

/-- `crc16` by the reflected loop (R106). -/
def crc16Reflected (bytes : List Byte) : Word := bytes.foldl reflectedStep 0x0000#16

end Sys2Proof.Machine
end

