-- ==== Sys2Proof/Machine/Commands.lean ====
section
/-! DEFINITION. The host's commands (41_crc16.md R102 to R104, 42_tx_framer_chunker.md R120 to R131). -/

namespace Sys2Proof.Machine

/-- PING (R129). -/
def execCmdPing (s : State) : Result :=
  whenTxIdle s fun s => { s.emitOut [0x00#8] with txState := .await }

/-- The accepted branch of SEND (R123). -/
def State.loadMessage (s : State) (m : List Byte) : State :=
  { s with
    txbuf := bufWrite s.txbuf 0 m
    txLen := BitVec.ofNat 8 m.length
    txCrc := crc16 s.params.crc m
    txPos := 0
    txStarted := false
    txErr := .none
    txState := .sending }

/-- SEND (R123), with the checks in the order of R216: EMPTY (R125), then OVERFLOW (R124). -/
def execCmdSend (m : List Byte) (s : State) : Result :=
  whenTxIdle s fun s =>
    if m.length = 0 then s.txRecord .empty
    else if m.length > msgMax ∨ s.params.p < 4 then s.txRecord .overflow
    else s.loadMessage m

/-- RESET (R131): `TX_STATE` stays `TX_IDLE`. -/
def execCmdReset (s : State) : Result := whenTxIdle s fun s => s.emitOut [0x04#8]

/-- CRC_CLEAR (R102). -/
def execCmdCrcClear (s : State) : Result := whenTxIdle s fun s => { s with crcReg := s.params.crc.init }

/-- CRC_FEED (R103). -/
def execCmdCrcFeed (b : Byte) (s : State) : Result :=
  whenTxIdle s fun s => { s with crcReg := crcStep s.params.crc s.crcReg b }

/-- CRC_READ (R104): the returned value stands in the model's own field `cmdReturn` (log 5). -/
def execCmdCrcRead (s : State) : Result :=
  whenTxIdle s fun s => { s with cmdReturn := some (crcOut s.params.crc s.crcReg) }

end Sys2Proof.Machine
end

