-- ==== Sys2Proof/Machine/Messages.lean ====
section
/-! DEFINITION. The messages: classification in the completion step (44_messages_executor.md R190, R192, R197 to R200). -/

namespace Sys2Proof.Machine

/-- A legal message is handed to the executor (R192, R193). -/
def State.startExecuting (s : State) : State := { s with rxState := .executing, rxBusyHit := false }

/-- `classify()` (R192) for a message with opcode `op` and `len` bytes in all: the opcode is checked before the length. -/
def classify (op : Byte) (len : Nat) (s : State) : State :=
  match tableLength s.params.msgTable op with
  | none => s.rxRecord stWrongMessage
  | some n => if len ≠ n then s.rxRecord stMessageError else s.startExecuting

/-- Dfu (R197). -/
def execMsgDfu (payload : List Byte) (s : State) : Result := .next (classify 0x00#8 (payload.length + 1) s)

/-- WritePage (R198). The block does not check the page index. -/
def execMsgWritePage (payload : List Byte) (s : State) : Result := .next (classify 0x01#8 (payload.length + 1) s)

/-- ActivateLayout (R199). -/
def execMsgActivateLayout (payload : List Byte) (s : State) : Result := .next (classify 0x02#8 (payload.length + 1) s)

/-- DeactivateLayout (R200). -/
def execMsgDeactivateLayout (payload : List Byte) (s : State) : Result := .next (classify 0x03#8 (payload.length + 1) s)

/-- A message whose opcode R79 does not list (R192); a `MSG_TABLE` that lists it decides by its own row (R13). -/
def execMsgUnknown (opcode : Byte) (payload : List Byte) (s : State) : Result := .next (classify opcode (payload.length + 1) s)

/-- The meaning of a decoded message. -/
def runMessage (m : Message) (s : State) : Result :=
  match m with
  | .dfu payload => execMsgDfu payload s
  | .writePage payload => execMsgWritePage payload s
  | .activateLayout payload => execMsgActivateLayout payload s
  | .deactivateLayout payload => execMsgDeactivateLayout payload s
  | .unknown opcode payload => execMsgUnknown opcode payload s

end Sys2Proof.Machine
end

