-- ==== Sys2Proof/Machine/Packets.lean ====
section
/-! DEFINITION. The packets the RX engine takes from OUTQ (43_rx_reassembler.md R150 to R165). -/

namespace Sys2Proof.Machine

/-! ### Shared operations of the RX engine -/

/-- The response slot is written with the status current at this packet (R151). -/
def State.answerPing (s : State) : State := { s with resp := (0x00#8, reportedStatus s), respValid := true }

/-- A packet discarded while the executor holds a message (R158). -/
def State.noteBusy (s : State) : State := { s with rxBusyHit := true }

/-- `complete()` (R160): the CRC first, under the RX side's variant (R161, R252), then the message's own meaning (R192).
A message the decoder rejects has `RX_TOTAL = 0`, which no accepted Start leaves (R153); R192's text is applied to it as it
stands (log 15). -/
def complete (s : State) : Result :=
  if crc16 s.params.rxCrc (rxMessage s) ≠ s.rxCrcExp then .next (s.rxRecord stCrcError)
  else match decodeMessage (rxMessage s) with
    | .ok m => runMessage m s
    | .error _ => .next (classify (rxByte s 0) s.rxTotal.toNat s)

/-- The last line of R153 and R156: `if RX_COUNT = RX_TOTAL then complete()`. -/
def completeIfWhole (s : State) : Result :=
  if s.rxCount = s.rxTotal.toNat then complete s else .next s

/-- Start accepted (R153). -/
def acceptStart (totalLen : Byte) (crc : Word) (chunk : List Byte) (s : State) : State :=
  { ((s.beginMessage totalLen crc).appendChunk chunk) with rxState := .receiving }

/-- Reset outside execution (R159). -/
def State.resetRx (s : State) : State :=
  { s with rxState := .idle, rxLast := stIdle, rxTotal := 0#8, rxCount := 0, rxCrcExp := 0#16, rxBusyHit := false }

/-! ### The packets -/

/-- PING packet (R151). -/
def execPktPing (_ignored : List Byte) (s : State) : Result := .next s.answerPing

/-- START packet of at least 4 bytes (R152, R153, R154, R158). -/
def execPktStart (totalLen : Byte) (crc : Word) (chunk : List Byte) (s : State) : Result :=
  if s.rxState = .executing then .next s.noteBusy
  else if totalLen = 0#8 then .next (s.rxRecord stMessageError)
  else completeIfWhole (acceptStart totalLen crc chunk s)

/-- START_SHORT packet (R152, R154, R158). -/
def execPktStartShort (_rest : List Byte) (s : State) : Result :=
  if s.rxState = .executing then .next s.noteBusy else .next (s.rxRecord stMessageError)

/-- CONT packet (R156, R157, R158). -/
def execPktCont (chunk : List Byte) (s : State) : Result :=
  match s.rxState with
  | .executing => .next s.noteBusy
  | .idle => .next (s.rxRecord stUnexpectedCont)
  | .receiving => completeIfWhole (s.appendChunk chunk)

/-- RESET packet (R159): ignored while executing. -/
def execPktReset (_ignored : List Byte) (s : State) : Result :=
  if s.rxState = .executing then .next s else .next s.resetRx

/-- A packet with an unassigned opcode (R163, R158). -/
def execPktUnassigned (_opcode : Byte) (_payload : List Byte) (s : State) : Result :=
  if s.rxState = .executing then .next s.noteBusy else .next (s.rxRecord stMessageError)

/-- The zero-length packet: dropped, no state change (R150). -/
def execPktEmpty (s : State) : Result := .next s

end Sys2Proof.Machine
end

