-- ==== Sys2Proof/Machine/Response.lean ====
section
/-! DEFINITION. The response packets the TX engine takes from INQ (42_tx_framer_chunker.md R130). -/

namespace Sys2Proof.Machine

/-- The TX engine takes a response only in `TX_AWAIT` (R130); elsewhere the step is not enabled and nothing changes. -/
def whenTxAwait (s : State) (effect : State → State) : Result :=
  if s.txState = .await then .next (effect s) else .next s

/-- A response of at least two bytes (R130): byte 1 is the status, everything else is ignored. -/
def execResp (_byte0 status : Byte) (_ignored : List Byte) (s : State) : Result :=
  whenTxAwait s fun s => { s.txRecord .none with txStatus := status, txStatusValid := true, txState := .idle }

/-- A response of fewer than two bytes: SHORT_RESPONSE, `TX_STATUS` keeps its value (R130, R214). -/
def execRespShort (_bytes : List Byte) (s : State) : Result :=
  whenTxAwait s fun s => { s.txRecord .shortResponse with txState := .idle }

end Sys2Proof.Machine
end

