-- ==== Sys2Proof/Machine/Dispatch.lean ====
section
/-! DEFINITION. The meaning of each instruction, one arm per constructor of Instr. -/

namespace Sys2Proof.Machine

def exec (i : Instr) (s : State) : Host.Outcome State Fault Refusal :=
  match i with
  -- packets on OUTQ
  | .pktPing ignored => Sys2Proof.Machine.execPktPing ignored s
  | .pktStart totalLen crc chunk => Sys2Proof.Machine.execPktStart totalLen crc chunk s
  | .pktStartShort rest => Sys2Proof.Machine.execPktStartShort rest s
  | .pktCont chunk => Sys2Proof.Machine.execPktCont chunk s
  | .pktReset ignored => Sys2Proof.Machine.execPktReset ignored s
  | .pktUnassigned opcode payload => Sys2Proof.Machine.execPktUnassigned opcode payload s
  | .pktEmpty => Sys2Proof.Machine.execPktEmpty s
  -- packets on INQ
  | .resp byte0 status ignored => Sys2Proof.Machine.execResp byte0 status ignored s
  | .respShort bytes => Sys2Proof.Machine.execRespShort bytes s
  -- messages
  | .msgDfu payload => Sys2Proof.Machine.execMsgDfu payload s
  | .msgWritePage payload => Sys2Proof.Machine.execMsgWritePage payload s
  | .msgActivateLayout payload => Sys2Proof.Machine.execMsgActivateLayout payload s
  | .msgDeactivateLayout payload => Sys2Proof.Machine.execMsgDeactivateLayout payload s
  | .msgUnknown opcode payload => Sys2Proof.Machine.execMsgUnknown opcode payload s
  -- commands
  | .cmdPing => Sys2Proof.Machine.execCmdPing s
  | .cmdSend m => Sys2Proof.Machine.execCmdSend m s
  | .cmdReset => Sys2Proof.Machine.execCmdReset s
  | .cmdCrcClear => Sys2Proof.Machine.execCmdCrcClear s
  | .cmdCrcFeed b => Sys2Proof.Machine.execCmdCrcFeed b s
  | .cmdCrcRead => Sys2Proof.Machine.execCmdCrcRead s

end Sys2Proof.Machine
end

