-- ==== Sys2Proof/Machine/Turns.lean ====
section
/-! DEFINITION. Whose step is taken, and the step itself (00_scope.md R14, R15): fetching a command, a packet or a response, decoding
it and running it. -/

namespace Sys2Proof.Machine

/-- The refusal a decoder's rejection turns into at the command port (R120, log 4). The two message errors do not arise there. -/
def refusalOf : DecodeError → Refusal
  | .unknownCommand code => .unknownCommand code
  | .malformedCommand transaction => .malformedCommand transaction
  | .emptyMessage => .malformedCommand []
  | .messageTooLong _ => .malformedCommand []

/-- Run what a decoder answered. -/
def runDecoded (d : Except DecodeError Instr) (s : State) : Result :=
  match d with
  | .ok i => exec i s
  | .error e => .refused (refusalOf e)

/-- The host's turn: the next command is accepted in `TX_IDLE`, and held, still pending, in the other two states (R121). -/
def hostTurn (s : State) : Result :=
  if s.txState = .idle then
    match s.cmdq with
    | [] => .next s
    | t :: rest => runDecoded (decode .command t) { s with cmdq := rest }
  else .next s

/-- The TX engine's turn: an emission in `TX_SENDING` (R126, R127), the response step in `TX_AWAIT` (R130), held while `INQ` is empty. -/
def txTurn (s : State) : Result :=
  match s.txState with
  | .idle => .next s
  | .sending => .next (emitNext s)
  | .await =>
    match s.inq with
    | [] => .next s
    | r :: rest => runDecoded (decode .inLink r) { s with inq := rest }

/-- The RX engine's turn (R150): `Take(OUTQ)`, held while `OUTQ` is empty. -/
def rxTurn (s : State) : Result :=
  match s.outq with
  | [] => .next s
  | pkt :: rest => runDecoded (decode .outLink pkt) { s with outq := rest }

/-- One turn, taken whole (R14). A turn whose step is not enabled changes nothing (R17 "hold"). -/
def takeTurn (t : Turn) (s : State) : Result :=
  match t with
  | .host => hostTurn s
  | .tx => txTurn s
  | .link => .next (linkStep s)
  | .rx => rxTurn s
  | .executor r => .next (executorStep r s)
  | .injectOut pkt => injectOut pkt s
  | .injectIn pkt => injectIn pkt s
  | .hardwareReset => .next (hardwareReset s)

/-- The TX engine has an enabled step (R126, R127, R130). -/
def txEnabled (s : State) : Bool :=
  match s.txState with
  | .idle => false
  | .sending => true
  | .await => !s.inq.isEmpty

/-- The eager schedule of 95_test_vectors.md: the block's own steps before the host's next command; the executor and the
environment move only where a turn says so (log 2). -/
def eagerTurn (s : State) : Option Turn :=
  if txEnabled s then some .tx
  else if s.respValid then some .link
  else if !s.outq.isEmpty then some .rx
  else if s.txState = .idle ∧ s.cmdq ≠ [] then some .host
  else none

/-- The step: the turn the schedule names next, or, where it names none, the eager schedule's. With no enabled step the block is
idle and all state persists (R229). -/
def takeStep (s : State) : Result :=
  match s.schedule with
  | t :: rest => takeTurn t { s with schedule := rest }
  | [] =>
    match eagerTurn s with
    | some t => takeTurn t s
    | none => .next s

/-- A table word placed so that the next step fetches and runs it (log 3, log 12): a command at the head of the host's commands with the
host's turn next, or a packet at the head of `OUTQ` with the RX engine's turn next. -/
def placeItem (s : State) (port : Port) (bytes : List Byte) : State :=
  match port with
  | .command => { s with cmdq := bytes :: s.cmdq, schedule := .host :: s.schedule }
  | .outLink => { s with outq := bytes :: s.outq, schedule := .rx :: s.schedule }
  | .inLink => { s with inq := bytes :: s.inq, schedule := .tx :: s.schedule }
  | .message => s

end Sys2Proof.Machine
end

