-- ==== Sys2Proof/Machine/Step.lean ====
section
/-! DEFINITION. The step of the machine and the placing of a table word. -/

namespace Sys2Proof.Machine

/-- One step of one agent (R14). -/
def step (s : State) : Host.Outcome State Fault Refusal := takeStep s

/-- `s` with a table word placed where the next step fetches it (log 3, log 12). -/
def State.withFetchWord (s : State) (nbits w : Nat) : State :=
  placeItem s (tablePort (tableItem nbits w)) (tableItem nbits w)

end Sys2Proof.Machine
end

