-- ==== Sys2Proof/Machine/Pseudo.lean ====
section
/-! DEFINITION. The pseudo-instructions of 30_encoding.md R87: each expands into host commands. -/

namespace Sys2Proof.Machine

/-- The pseudo-instructions (R87). `poll` carries how often its loop pings, which the host's reading of `TX_STATUS`
decides; R87's loop pings at least once, and `poll 0`, which no run of it gives, is admitted. `msgWritePage` carries a page of any
length, though R87 defines 128 bytes alone (both DESIGN CHOICE, log 16). -/
inductive Pseudo where
  | msgDfu
  | msgWritePage (index : Byte) (page : List Byte)
  | msgActivate
  | msgDeactivate
  | poll (loops : Nat)
  deriving DecidableEq, Repr

/-- The expansion of R87, as commands. A page of another length than 128 is expanded like one of 128, with no check, and `poll 0`
is the last ping alone (DESIGN CHOICE, log 16). -/
def expand : Pseudo → List Instr
  | .msgDfu => [.cmdSend [0x00#8]]
  | .msgWritePage index page => [.cmdSend (0x01#8 :: index :: page)]
  | .msgActivate => [.cmdSend [0x02#8]]
  | .msgDeactivate => [.cmdSend [0x03#8]]
  | .poll loops => List.replicate loops .cmdPing ++ [.cmdPing]

/-- The expansion as command-port transactions (R82). -/
def expandTransactions (p : Pseudo) : List Transaction := (expand p).map encode

/-- `poll`'s loop goes on while `TX_STATUS = 4` (R87). -/
def pollGoesOn (s : State) : Bool := s.txStatus == stExecuting

/-- `poll`'s final test (R87): the host goes on only if the last status is Idle. -/
def pollSucceeded (s : State) : Bool := s.txStatus == stIdle

end Sys2Proof.Machine
end

