-- ==== Sys2Proof/Machine/Text.lean ====
section
/-! DEFINITION. The textual form of commands and packets (30_encoding.md R86). -/

namespace Sys2Proof.Machine

/-- One hexadecimal digit. -/
def hexDigit (n : Nat) : String := ((["0", "1", "2", "3", "4", "5", "6", "7", "8", "9", "A", "B", "C", "D", "E", "F"])[n]?).getD "?"

/-- A byte as a hex pair (R86). -/
def hexByte (b : Byte) : String := hexDigit (b.toNat / 16) ++ hexDigit (b.toNat % 16)

/-- A u16 as four hex digits, the `<hhhh>` of R86: the value, not its byte order on the wire. -/
def hexWord (w : Word) : String := hexByte (w.extractLsb' 8 8) ++ hexByte (w.extractLsb' 0 8)

/-- Space-separated hex pairs (R86). -/
def hexBytes : List Byte → String
  | [] => ""
  | [b] => hexByte b
  | b :: rest => hexByte b ++ " " ++ hexBytes rest

/-- The notation of R86. Items R86 gives no notation (a malformed or unassigned packet, a short response, a message by itself)
are written as their bytes. R86's PING, RESET and RESP have no place for the bytes a decoder does not read (R84, R130): a PING's or
RESET's trailing bytes, a response's byte 0 and tail. Those are left out of the text (DESIGN CHOICE, log 17). -/
def toText (i : Instr) : String :=
  match i with
  | .pktPing _ => "PING"
  | .pktStart totalLen crc chunk =>
    "START len=" ++ Nat.repr totalLen.toNat ++ " crc=" ++ hexWord crc ++ " data=" ++ hexBytes chunk
  | .pktStartShort rest => hexBytes (encode (.pktStartShort rest))
  | .pktCont chunk => "CONT data=" ++ hexBytes chunk
  | .pktReset _ => "RESET"
  | .pktUnassigned op payload => hexBytes (encode (.pktUnassigned op payload))
  | .pktEmpty => ""
  | .resp _ status _ => "RESP status=" ++ Nat.repr status.toNat
  | .respShort bytes => hexBytes bytes
  | .msgDfu payload => hexBytes (encode (.msgDfu payload))
  | .msgWritePage payload => hexBytes (encode (.msgWritePage payload))
  | .msgActivateLayout payload => hexBytes (encode (.msgActivateLayout payload))
  | .msgDeactivateLayout payload => hexBytes (encode (.msgDeactivateLayout payload))
  | .msgUnknown op payload => hexBytes (encode (.msgUnknown op payload))
  | .cmdPing => "ping"
  | .cmdSend m => if m = [] then "send" else "send " ++ hexBytes m
  | .cmdReset => "reset"
  | .cmdCrcClear => "crc.clear"
  | .cmdCrcFeed b => "crc.feed " ++ "0x" ++ hexByte b
  | .cmdCrcRead => "crc.read"

end Sys2Proof.Machine
end

