-- ==== Sys2Proof/Safety.lean ====
section
/-! DEFINITION. The terms claims are stated in: the invariant of the system, quiescence (R254), and the packets of a message as R128 gives
them. -/

namespace Sys2Proof.Machine

/-! ### The invariant -/

/-- What holds of the TX path between steps (R27, R45, R124, R126, R127). -/
structure TxInv (s : State) : Prop where
  pos_le : s.txPos ≤ s.txLen.toNat
  sending_size : s.txState = .sending → 4 ≤ s.params.p
  sending_pos : s.txState = .sending → s.txPos < s.txLen.toNat
  sending_start : s.txState = .sending → s.txStarted = false → s.txPos = 0
  sending_written : s.txState = .sending → bufWritten s.txbuf s.txLen.toNat = true
  sending_crc : s.txState = .sending → s.txCrc = crc16 s.params.crc (txMessage s)

/-- What holds of the RX path between steps (R34, R45, R61, R155, R192). -/
structure RxInv (s : State) : Prop where
  count_le : s.rxCount ≤ s.rxTotal.toNat
  receiving_count : s.rxState = .receiving → s.rxCount < s.rxTotal.toNat
  receiving_written : s.rxState = .receiving → bufWritten s.rxbuf s.rxCount = true
  executing_count : s.rxState = .executing → s.rxCount = s.rxTotal.toNat
  executing_written : s.rxState = .executing → bufWritten s.rxbuf s.rxTotal.toNat = true
  executing_crc : s.rxState = .executing → crc16 s.params.rxCrc (rxMessage s) = s.rxCrcExp
  executing_table : s.rxState = .executing → tableLength s.params.msgTable (rxByte s 0) = some s.rxTotal.toNat

/-- No packet on `OUTQ` is longer than `P_MAX` (R18, R164). `INQ` has no such bound: a response is put on it
whatever `P_MAX` is (log 20). -/
def outqFits (s : State) : Bool := s.outq.all fun pkt => decide (pkt.length ≤ s.params.pMax)

/-- The invariant of the system. -/
structure Inv (s : State) : Prop where
  params_wf : s.params.wf = true
  txbuf_wf : s.txbuf.wf = true
  rxbuf_wf : s.rxbuf.wf = true
  tx : TxInv s
  rx : RxInv s
  outq_fits : outqFits s = true

/-! ### Pings under way (R133) -/

/-- A packet the RX decoder reads as a Ping (R84). -/
def isPing (pkt : Packet) : Bool := pkt.head? == some 0x00#8

/-- How many Pings stand in a queue. -/
def pingsIn (q : List Packet) : Nat := q.countP isPing

/-- Exactly one Ping or its response is under way in `TX_AWAIT`, and none otherwise. -/
def PingsAccounted (s : State) : Prop :=
  pingsIn s.outq + (if s.respValid then 1 else 0) + s.inq.length = if s.txState = .await then 1 else 0

/-- The turn the next step takes, if any. -/
def nextTurn (s : State) : Option Turn :=
  match s.schedule with
  | t :: _ => some t
  | [] => eagerTurn s

/-- A turn by which a test puts a Ping on `OUTQ`, or anything on `INQ`: what breaks R133's first condition. -/
def Turn.injectsPing : Turn → Bool
  | .injectOut pkt => isPing pkt
  | .injectIn _ => true
  | .host | .tx | .link | .rx | .executor _ | .hardwareReset => false

/-! ### Quiescence (R254) -/

/-- A quiescent state (R254). -/
structure Quiescent (s : State) : Prop where
  tx_idle : s.txState = .idle
  not_executing : s.rxState ≠ .executing
  no_response : s.respValid = false
  outq_empty : s.outq = []
  inq_empty : s.inq = []

/-! ### The packets of one message (R128) -/

/-- `n0 = min(L, P - 4)` (R128). -/
def firstCount (p : Nat) (m : List Byte) : Nat := min m.length (p - 4)

/-- The Start packet (R73, R128). -/
def startFrame (c : Params) (m : List Byte) : Packet :=
  0x02#8 :: BitVec.ofNat 8 m.length :: (le16 (crc16 c.crc m) ++ m.take (firstCount c.p m))

/-- Cont packet `k` carries `M[n0 + k*(P-1) : min(L, n0 + (k+1)*(P-1))]` (R128). -/
def contFrame (c : Params) (m : List Byte) (k : Nat) : Packet :=
  0x03#8 :: (m.drop (firstCount c.p m + k * (c.p - 1))).take (c.p - 1)

/-- `ceil((L - n0) / (P - 1))` (R128). -/
def contFrameCount (p : Nat) (m : List Byte) : Nat := (m.length - firstCount p m + (p - 2)) / (p - 1)

/-- The packets SEND emits for a message, in order (R128). -/
def frames (c : Params) (m : List Byte) : List Packet :=
  startFrame c m :: (List.range (contFrameCount c.p m)).map (contFrame c m)

/-- The message bytes a Start or Cont packet carries (R83). -/
def frameChunk : Packet → List Byte
  | [] => []
  | op :: rest => if op = 0x02#8 then rest.drop 3 else rest

end Sys2Proof.Machine
end

