-- ==== Sys2Proof/Certificates/Slice0/Obligations.lean ====
section
/-! DEFINITION. The statements for the provers. Each docstring names the rule of spec/ the statement formalises; OBLIGATIONS.json lists
them. An equality with a record update also says that every field the update does not name is unchanged. -/

open Sys2Proof Sys2Proof.Machine

/-! ### Encoding -/

/-- Decoding a well-formed instruction's bytes on its own port gives it back, with every operand (30_encoding.md §1 to §5). How
a command's operands lie in its transaction is the model's choice (log 4). -/
def Obligations.DecodeOfEncodeGivesInstr : Prop :=
  ∀ i : Instr, i.wf = true → decode i.port (encode i) = .ok i

/-- Whatever bytes a port's decoder accepts are exactly the encoding of what it answers, which is well-formed and of that port. On the
command port it rests on the model's choice of log 4: the transaction is the code byte and R82's operand bytes, and any other operand
bytes are refused. -/
def Obligations.EncodeOfDecodeGivesBytes : Prop :=
  ∀ (port : Port) (bytes : List Byte) (i : Instr), decode port bytes = .ok i →
    encode i = bytes ∧ i.port = port ∧ i.wf = true

/-- R84: the class of every byte sequence, and that the bytes after the defined fields of PING, RESET and any response are not read; nor
is a response's byte 0 (R130). -/
def Obligations.PacketClassesOfR84 : Prop :=
  decodePacket [] = .pktEmpty ∧
  (∀ rest, decodePacket (0x00#8 :: rest) = .pktPing rest) ∧
  (∀ totalLen lo hi chunk, decodePacket (0x02#8 :: totalLen :: lo :: hi :: chunk) = .pktStart totalLen (fromLe16 lo hi) chunk) ∧
  (∀ rest, rest.length < 3 → decodePacket (0x02#8 :: rest) = .pktStartShort rest) ∧
  (∀ chunk, decodePacket (0x03#8 :: chunk) = .pktCont chunk) ∧
  (∀ rest, decodePacket (0x04#8 :: rest) = .pktReset rest) ∧
  (∀ op rest, (op = 0x01#8 ∨ 0x05 ≤ op.toNat) → decodePacket (op :: rest) = .pktUnassigned op rest) ∧
  (∀ x y s, exec (.pktPing x) s = exec (.pktPing y) s) ∧
  (∀ x y s, exec (.pktReset x) s = exec (.pktReset y) s) ∧
  (∀ byte0 byte0' status x y s, exec (.resp byte0 status x) s = exec (.resp byte0' status y) s)

/-- Words written out from the spec's encodings and examples decode to the instruction they stand for (R76, R79, R82, R153). -/
def Obligations.SpecWordsDecode : Prop :=
  decode .outLink [0x02#8, 0x01#8, 0x40#8, 0x01#8, 0x03#8] = .ok (.pktStart 0x01#8 0x0140#16 [0x03#8]) ∧
  decode .outLink [0x02#8, 0x05#8] = .ok (.pktStartShort [0x05#8]) ∧
  decode .outLink [0x03#8, 0xAA#8] = .ok (.pktCont [0xAA#8]) ∧
  decode .outLink [0x04#8] = .ok (.pktReset []) ∧
  decode .outLink [0x01#8, 0x00#8] = .ok (.pktUnassigned 0x01#8 [0x00#8]) ∧
  decode .inLink [0x00#8, 0x04#8] = .ok (.resp 0x00#8 0x04#8 []) ∧
  decode .message [0x03#8] = .ok (.msgDeactivateLayout []) ∧
  decode .message [0x04#8] = .ok (.msgUnknown 0x04#8 []) ∧
  decode .command [0x02#8, 0x03#8] = .ok (.cmdSend [0x03#8]) ∧
  decode .command [0x11#8, 0x31#8] = .ok (.cmdCrcFeed 0x31#8)

/-! ### The step -/

/-- A step runs the decoded instruction: the host's turn its next command in `TX_IDLE` (R120, R121), the RX engine's turn the head of
`OUTQ` (R150), the TX engine's turn in `TX_AWAIT` the head of `INQ` (R130). Around exec the step moves the schedule on, the model's own
field (log 2), and removes the item, for a command from the model's own `cmdq` (log 3). -/
def Obligations.StepRunsDecodedInstr : Prop :=
  (∀ (s : State) (sched : List Turn) (tr : Transaction) (rest : List Transaction) (i : Instr),
    s.schedule = .host :: sched → s.txState = .idle → s.cmdq = tr :: rest → decode .command tr = .ok i →
    step s = exec i { s with schedule := sched, cmdq := rest }) ∧
  (∀ (s : State) (sched : List Turn) (pkt : Packet) (rest : List Packet) (i : Instr),
    s.schedule = .rx :: sched → s.outq = pkt :: rest → decode .outLink pkt = .ok i →
    step s = exec i { s with schedule := sched, outq := rest }) ∧
  (∀ (s : State) (sched : List Turn) (pkt : Packet) (rest : List Packet) (i : Instr),
    s.schedule = .tx :: sched → s.txState = .await → s.inq = pkt :: rest → decode .inLink pkt = .ok i →
    step s = exec i { s with schedule := sched, inq := rest })

/-- The model's choice (log 2): with no turn scheduled, the block's own steps come first (TX, then the link, then RX), then the
host's next command in `TX_IDLE`; the executor never moves by itself, and with nothing enabled all state persists (R229). -/
def Obligations.EmptyScheduleIsEager : Prop :=
  ∀ s : State, s.schedule = [] →
    ((s.txState = .sending ∨ (s.txState = .await ∧ s.inq ≠ [])) → step s = step { s with schedule := [.tx] }) ∧
    ((s.txState = .idle ∨ (s.txState = .await ∧ s.inq = [])) → s.respValid = true → step s = step { s with schedule := [.link] }) ∧
    ((s.txState = .idle ∨ (s.txState = .await ∧ s.inq = [])) → s.respValid = false → s.outq ≠ [] →
      step s = step { s with schedule := [.rx] }) ∧
    (s.txState = .idle → s.respValid = false → s.outq = [] → s.cmdq ≠ [] → step s = step { s with schedule := [.host] }) ∧
    (s.respValid = false → s.outq = [] → ((s.txState = .idle ∧ s.cmdq = []) ∨ (s.txState = .await ∧ s.inq = [])) →
      step s = .next s)

/-- R120: a code that is not in R82's table is refused (a transaction's operands do not matter). -/
def Obligations.UnknownCommandRefused : Prop :=
  ∀ (s : State) (sched : List Turn) (code : Byte) (operands : List Byte) (rest : List Transaction),
    s.schedule = .host :: sched → s.txState = .idle → s.cmdq = (code :: operands) :: rest →
    code ∉ [0x00#8, 0x02#8, 0x04#8, 0x10#8, 0x11#8, 0x12#8] →
    step s = .refused (.unknownCommand code)

/-- The model's choice (log 4): a listed code with operand bytes other than R82 gives it, and a transaction with no code, are refused. -/
def Obligations.MalformedCommandRefused : Prop :=
  ∀ (s : State) (sched : List Turn) (tr : Transaction) (rest : List Transaction),
    s.schedule = .host :: sched → s.txState = .idle → s.cmdq = tr :: rest →
    (tr = [] ∨
     (∃ code b operands, tr = code :: b :: operands ∧ code ∈ [0x00#8, 0x04#8, 0x10#8, 0x12#8]) ∨
     tr = [0x11#8] ∨ (∃ b c operands, tr = 0x11#8 :: b :: c :: operands)) →
    step s = .refused (.malformedCommand tr)

/-- R121: outside `TX_IDLE` what the host presents next is held, still pending; only the TX engine's own step (or a hardware reset) leaves
that state; and while a message is being sent, what a step puts on `OUTQ` is exactly the packet of R126 or R127. The first clause holds
any transaction, one whose code is no command among them: that the port does not look at the code while it holds is the model's choice
(log 13). -/
def Obligations.CommandHeldUntilTxIdle : Prop :=
  (∀ (s : State) (sched : List Turn), s.schedule = .host :: sched → s.txState ≠ .idle →
    step s = .next { s with schedule := sched }) ∧
  (∀ s t : State, s.txState ≠ .idle → step s = .next t → nextTurn s ≠ some .tx → nextTurn s ≠ some .hardwareReset →
    t.txState = s.txState ∧ t.cmdq = s.cmdq) ∧
  (∀ s t : State, s.txState = .sending → step s = .next t → nextTurn s ≠ some .hardwareReset →
    (∀ pkt, nextTurn s ≠ some (.injectOut pkt)) →
    t.outq = s.outq ∨ t.outq = s.outq.tail ∨
      t.outq = s.outq ++ [if s.txStarted then contPacket s else startPacket s])

/-- R210: every instruction completes in every state (no fault stops the block), and a step is refused only where the host presents a
transaction or the environment a packet. That the link's step is not refused under `P = 1` or `P_MAX = 1`
is the model's choice (log 20). -/
def Obligations.BlockNeverStops : Prop :=
  (∀ (i : Instr) (s : State), ∃ t, exec i s = .next t) ∧
  (∀ (s : State) (r : Refusal), step s = .refused r →
    nextTurn s = some .host ∨ ∃ pkt, nextTurn s = some (.injectOut pkt) ∨ nextTurn s = some (.injectIn pkt))

/-! ### The CRC unit -/

/-- R102. -/
def Obligations.CrcClearSetsInit : Prop :=
  decode .command [0x10#8] = .ok .cmdCrcClear ∧
  (∀ s : State, s.txState = .idle → exec .cmdCrcClear s = .next { s with crcReg := s.params.crc.init }) ∧
  (∀ s : State, s.txState ≠ .idle → exec .cmdCrcClear s = .next s) ∧
  (∀ s : State, s.txState = .idle → s.crcReg = s.params.crc.init → exec .cmdCrcClear s = .next s) ∧
  CrcVariant.arc.init = 0x0000#16

/-- R103, with the register values of its corner cases and example. -/
def Obligations.CrcFeedSteps : Prop :=
  (∀ b : Byte, decode .command [0x11#8, b] = .ok (.cmdCrcFeed b)) ∧
  (∀ (s : State) (b : Byte), s.txState = .idle →
    exec (.cmdCrcFeed b) s = .next { s with crcReg := crcStep s.params.crc s.crcReg b }) ∧
  (∀ (s : State) (b : Byte), s.txState ≠ .idle → exec (.cmdCrcFeed b) s = .next s) ∧
  crcStep CrcVariant.arc 0x0000#16 0x00#8 = 0x0000#16 ∧
  crcStep CrcVariant.arc 0x0000#16 0x03#8 = 0x0280#16 ∧
  crcOut CrcVariant.arc 0x0280#16 = 0x0140#16

/-- R104: CRC_READ returns `crc_out(CRC_REG)` and changes no register. The returned value stands in `cmdReturn`, the model's own
field (log 5). -/
def Obligations.CrcReadReturnsOutput : Prop :=
  decode .command [0x12#8] = .ok .cmdCrcRead ∧
  (∀ s : State, s.txState = .idle → exec .cmdCrcRead s = .next { s with cmdReturn := some (crcOut s.params.crc s.crcReg) }) ∧
  (∀ s : State, s.txState ≠ .idle → exec .cmdCrcRead s = .next s) ∧
  (∀ v : CrcVariant, crcOut v v.init = crc16 v []) ∧
  crcOut CrcVariant.arc CrcVariant.arc.init = 0x0000#16 ∧
  crc16 CrcVariant.arc [0x31#8, 0x32#8, 0x33#8, 0x34#8, 0x35#8, 0x36#8, 0x37#8, 0x38#8, 0x39#8] = 0xBB3D#16

/-- R105: clear, feeds and read, run as commands, return `crc16` of the bytes fed (`cmdReturn`: log 5; the schedule: log 2;
`cmdq`: log 3 and log 4). -/
def Obligations.CrcStreamingAgrees : Prop :=
  ∀ (s : State) (bytes : List Byte) (rest : List Transaction) (sched : List Turn),
    s.txState = .idle →
    s.cmdq = [0x10#8] :: (bytes.map fun b => [0x11#8, b]) ++ [0x12#8] :: rest →
    s.schedule = List.replicate (bytes.length + 2) .host ++ sched →
    ∃ w, core.run (bytes.length + 2) s =
      .next { s with crcReg := w, cmdReturn := some (crc16 s.params.crc bytes), cmdq := rest, schedule := sched }

/-- R106: under the default variant the function equals the reflected byte loop. -/
def Obligations.ReflectedLoopAgrees : Prop :=
  ∀ bytes : List Byte, crc16 CrcVariant.arc bytes = crc16Reflected bytes

/-- R107: appending the CRC, low byte first, gives CRC zero, for every reflected variant with `xorout = 0`. -/
def Obligations.ResidueIsZero : Prop :=
  ∀ (v : CrcVariant) (bytes : List Byte), v.refin = true → v.refout = true → v.xorout = 0x0000#16 →
    crc16 v (bytes ++ le16 (crc16 v bytes)) = 0x0000#16

/-- R160's remark, over R100's function: one flipped bit anywhere in a message changes its CRC, for every polynomial of at least two terms
(`poly` is not 0); and where bit 0 of `poly` is set, so does any change of one byte. -/
def Obligations.OneByteChangeIsDetected : Prop :=
  (∀ (v : CrcVariant) (before after : List Byte) (b : Byte) (k : Nat), v.poly ≠ 0x0000#16 → k < 8 →
    crc16 v (before ++ b :: after) ≠ crc16 v (before ++ (b ^^^ (0x01#8 <<< k)) :: after)) ∧
  (∀ (v : CrcVariant) (before after : List Byte) (b c : Byte), v.poly.getLsbD 0 = true → b ≠ c →
    crc16 v (before ++ b :: after) ≠ crc16 v (before ++ c :: after))

/-- 95_test_vectors.md V1 and V2, and R252's mismatch example. -/
def Obligations.CrcVectors : Prop :=
  crc16 CrcVariant.arc [0x31#8, 0x32#8, 0x33#8, 0x34#8, 0x35#8, 0x36#8, 0x37#8, 0x38#8, 0x39#8] = 0xBB3D#16 ∧
  crc16 ⟨0x1021#16, 0xFFFF#16, false, false, 0x0000#16⟩ [0x41#8] = 0xB915#16 ∧
  crc16 ⟨0x1021#16, 0x0000#16, true, true, 0x0000#16⟩ [0xAA#8, 0x55#8] = 0x57A7#16 ∧
  crc16 CrcVariant.arc [0x03#8] = 0x0140#16 ∧
  crc16 ⟨0x8005#16, 0xFFFF#16, true, true, 0x0000#16⟩ [0x03#8] = 0x41FF#16

/-! ### The TX path -/

/-- R123 and R125: SEND in `TX_IDLE`. The errors change `TX_ERR` alone; the accepted SEND writes `TXBUF[0:L]` and the registers R123
lists, and no other byte of `TXBUF`. -/
def Obligations.SendLoadsMessage : Prop :=
  ∀ (s : State) (m : List Byte), s.txState = .idle →
    (m.length = 0 → exec (.cmdSend m) s = .next { s with txErr := .empty }) ∧
    (1 ≤ m.length → (255 < m.length ∨ s.params.p < 4) → exec (.cmdSend m) s = .next { s with txErr := .overflow }) ∧
    (1 ≤ m.length → m.length ≤ 255 → 4 ≤ s.params.p →
      ∃ t : State, exec (.cmdSend m) s = .next t ∧
        t = { s with txbuf := t.txbuf, txLen := t.txLen, txCrc := crc16 s.params.crc m, txPos := 0, txStarted := false,
                     txErr := .none, txState := .sending } ∧
        t.txLen.toNat = m.length ∧
        (∀ (k : Nat) (hk : k < m.length), txByte t k = m[k]) ∧
        (∀ a, m.length ≤ a → txByte t a = txByte s a))

/-- R121 for the six commands: none has an effect outside `TX_IDLE`. -/
def Obligations.CommandsHaveNoEffectWhileBusy : Prop :=
  ∀ (i : Instr) (s : State), i.port = .command → s.txState ≠ .idle → exec i s = .next s

/-- R129: PING puts the Ping packet on `OUTQ` and enters `TX_AWAIT`, where the next PING is not accepted and the engine waits while `INQ`
is empty. -/
def Obligations.PingCommandEmits : Prop :=
  decode .command [0x00#8] = .ok .cmdPing ∧
  (∀ s : State, s.txState = .idle → exec .cmdPing s = .next { s with outq := s.outq ++ [[0x00#8]], txState := .await }) ∧
  (∀ s : State, s.txState = .await → exec .cmdPing s = .next s) ∧
  (∀ (s : State) (sched : List Turn), s.schedule = .tx :: sched → s.txState = .await → s.inq = [] →
    step s = .next { s with schedule := sched })

/-- R131: RESET puts the Reset packet on `OUTQ` and changes nothing else. -/
def Obligations.ResetCommandEmits : Prop :=
  decode .command [0x04#8] = .ok .cmdReset ∧
  (∀ s : State, s.txState = .idle → exec .cmdReset s = .next { s with outq := s.outq ++ [[0x04#8]] }) ∧
  (∀ s : State, s.txState ≠ .idle → exec .cmdReset s = .next s)

/-- R126: the Emit Start step, with the packet written out byte for byte. -/
def Obligations.EmitStartStep : Prop :=
  ∀ (s : State) (sched : List Turn), s.schedule = .tx :: sched → s.txState = .sending → s.txStarted = false →
    step s = .next { s with
      schedule := sched
      outq := s.outq ++ [0x02#8 :: s.txLen :: (le16 s.txCrc ++ (List.range (min s.txLen.toNat (s.params.p - 4))).map (txByte s))]
      txPos := min s.txLen.toNat (s.params.p - 4)
      txStarted := true
      txState := if min s.txLen.toNat (s.params.p - 4) = s.txLen.toNat then .idle else .sending } ∧
    (4 ≤ s.params.p → 4 + min s.txLen.toNat (s.params.p - 4) ≤ s.params.p)

/-- R127: the Emit Cont step, with the packet written out byte for byte; in a state that meets the invariant it carries at least one
byte, is at most `P` bytes long, and is shorter only where it ends the message. -/
def Obligations.EmitContStep : Prop :=
  ∀ (s : State) (sched : List Turn), s.schedule = .tx :: sched → s.txState = .sending → s.txStarted = true →
    step s = .next { s with
      schedule := sched
      outq := s.outq ++ [0x03#8 ::
        (List.range (min (s.params.p - 1) (s.txLen.toNat - s.txPos))).map (fun k => txByte s (s.txPos + k))]
      txPos := s.txPos + min (s.params.p - 1) (s.txLen.toNat - s.txPos)
      txState := if s.txPos + min (s.params.p - 1) (s.txLen.toNat - s.txPos) = s.txLen.toNat then .idle else .sending } ∧
    (Inv s → 1 ≤ min (s.params.p - 1) (s.txLen.toNat - s.txPos) ∧ 1 + min (s.params.p - 1) (s.txLen.toNat - s.txPos) ≤ s.params.p ∧
      (1 + min (s.params.p - 1) (s.txLen.toNat - s.txPos) < s.params.p →
        s.txPos + min (s.params.p - 1) (s.txLen.toNat - s.txPos) = s.txLen.toNat))

/-- R130: the response step. -/
def Obligations.ResponseStep : Prop :=
  (∀ (s : State) (byte0 status : Byte) (ignored : List Byte), s.txState = .await →
    exec (.resp byte0 status ignored) s =
      .next { s with txStatus := status, txStatusValid := true, txErr := .none, txState := .idle }) ∧
  (∀ (s : State) (bytes : List Byte), s.txState = .await →
    exec (.respShort bytes) s = .next { s with txErr := .shortResponse, txState := .idle }) ∧
  (∀ (s : State) (sched : List Turn) (r0 r1 : Byte) (tail : List Byte) (rest : List Packet),
    s.schedule = .tx :: sched → s.txState = .await → s.inq = (r0 :: r1 :: tail) :: rest →
    step s = .next { s with schedule := sched, inq := rest, txStatus := r1, txStatusValid := true, txErr := .none, txState := .idle }) ∧
  (∀ (s : State) (sched : List Turn) (r : Packet) (rest : List Packet),
    s.schedule = .tx :: sched → s.txState = .await → s.inq = r :: rest → r.length < 2 →
    step s = .next { s with schedule := sched, inq := rest, txErr := .shortResponse, txState := .idle }) ∧
  (∀ (s : State) (sched : List Turn), s.schedule = .tx :: sched → s.txState = .await → s.inq = [] →
    step s = .next { s with schedule := sched })

/-- R128, R58: the host's SEND and the TX engine's turns after it, in a run of the machine, put exactly R128's packets on `OUTQ`, in order,
and end the send. The turns are those of the model's own schedule (log 2), and the SEND that of its `cmdq` (log 3, log 4). -/
def Obligations.SendEmitsFrames : Prop :=
  ∀ (s : State) (m : List Byte) (rest : List Transaction) (sched : List Turn),
    s.txState = .idle → 1 ≤ m.length → m.length ≤ 255 → 4 ≤ s.params.p →
    s.cmdq = (0x02#8 :: m) :: rest →
    s.schedule = .host :: List.replicate (1 + contFrameCount s.params.p m) .tx ++ sched →
    ∃ t : State, core.run (2 + contFrameCount s.params.p m) s = .next t ∧
      t = { s with outq := s.outq ++ frames s.params m, cmdq := rest, schedule := sched, txbuf := t.txbuf, txLen := t.txLen,
                   txPos := m.length, txStarted := true, txCrc := crc16 s.params.crc m, txErr := .none } ∧
      t.txLen.toNat = m.length

/-- R128: the packets of a message are one Start and `ceil((L - n0) / (P - 1))` Conts, each at most `P` bytes and each but the last
Cont of full size, and their chunks concatenate to the message; and the source's example. -/
def Obligations.FramesCutTheMessage : Prop :=
  (∀ (c : Params) (m : List Byte), 1 ≤ m.length → m.length ≤ 255 → 4 ≤ c.p →
    (frames c m).length = 1 + contFrameCount c.p m ∧
    (∀ pkt ∈ frames c m, pkt.length ≤ c.p) ∧
    (startFrame c m).length = 4 + min m.length (c.p - 4) ∧
    (∀ k, k + 1 < contFrameCount c.p m → (contFrame c m k).length = c.p) ∧
    (∀ k, k < contFrameCount c.p m → 2 ≤ (contFrame c m k).length) ∧
    ((frames c m).map frameChunk).flatten = m) ∧
  ((frames Params.default (List.replicate 201 0x00#8)).map List.length = [64, 64, 64, 16])

/-! ### The RX path -/

/-- R38 and R151: PING writes the response slot with the status current at its arrival, and nothing else. -/
def Obligations.PingPacketAnswers : Prop :=
  ∀ (s : State) (ignored : List Byte),
    exec (.pktPing ignored) s = .next { s with
      resp := (0x00#8, if s.rxState = .receiving then 0x03#8 else if s.rxState = .executing then 0x04#8 else s.rxLast)
      respValid := true }

/-- R153 with R155, R160 and R161: an accepted Start. A chunk that does not complete the message is stored from offset 0; one that does is
stored up to `totalLen`, the rest is ignored, and in the same step CrcError is recorded or the meaning of the message that
`RXBUF[0:RX_TOTAL]` decodes to is run. -/
def Obligations.StartAccepted : Prop :=
  (∀ (s : State) (totalLen : Byte) (crc : Word) (chunk : List Byte),
      s.rxState ≠ .executing → totalLen ≠ 0x00#8 → chunk.length < totalLen.toNat →
      ∃ t : State, exec (.pktStart totalLen crc chunk) s = .next t ∧
        t = { s with rxbuf := t.rxbuf, rxTotal := totalLen, rxCrcExp := crc, rxCount := chunk.length, rxState := .receiving } ∧
        (∀ (k : Nat) (hk : k < chunk.length), rxByte t k = chunk[k]) ∧
        (∀ a, chunk.length ≤ a → rxByte t a = rxByte s a)) ∧
  (∀ (s : State) (totalLen : Byte) (crc : Word) (chunk : List Byte),
      s.rxState ≠ .executing → totalLen ≠ 0x00#8 → totalLen.toNat ≤ chunk.length →
      ∃ u : State, u = { s with rxbuf := u.rxbuf, rxTotal := totalLen, rxCrcExp := crc, rxCount := totalLen.toNat,
                                rxState := .receiving } ∧
        rxMessage u = chunk.take totalLen.toNat ∧
        (∀ a, totalLen.toNat ≤ a → rxByte u a = rxByte s a) ∧
        (crc16 s.params.rxCrc (rxMessage u) ≠ crc →
          exec (.pktStart totalLen crc chunk) s = .next { u with rxState := .idle, rxLast := 0x02#8 }) ∧
        (crc16 s.params.rxCrc (rxMessage u) = crc →
          ∃ i, decode .message (rxMessage u) = .ok i ∧ exec (.pktStart totalLen crc chunk) s = exec i u))

/-- R156 with R155, R160 and R161: a Cont in `RX_RECEIVING`. A chunk that does not complete the message is stored at the current offset;
one that does is stored up to the announced length, the rest is ignored, and in the same step CrcError is recorded or the meaning of
the message that `RXBUF[0:RX_TOTAL]` decodes to is run. -/
def Obligations.ContReceived : Prop :=
  (∀ (s : State) (chunk : List Byte), s.rxState = .receiving → s.rxCount + chunk.length < s.rxTotal.toNat →
      ∃ t : State, exec (.pktCont chunk) s = .next t ∧
        t = { s with rxbuf := t.rxbuf, rxCount := s.rxCount + chunk.length } ∧
        (∀ (k : Nat) (hk : k < chunk.length), rxByte t (s.rxCount + k) = chunk[k]) ∧
        (∀ a, (a < s.rxCount ∨ s.rxCount + chunk.length ≤ a) → rxByte t a = rxByte s a)) ∧
  (∀ (s : State) (chunk : List Byte), s.rxState = .receiving → s.rxCount < s.rxTotal.toNat →
      s.rxTotal.toNat ≤ s.rxCount + chunk.length →
      ∃ u : State, u = { s with rxbuf := u.rxbuf, rxCount := s.rxTotal.toNat } ∧
        (∀ (k : Nat) (hk : k < chunk.length), s.rxCount + k < s.rxTotal.toNat → rxByte u (s.rxCount + k) = chunk[k]) ∧
        (∀ a, (a < s.rxCount ∨ s.rxTotal.toNat ≤ a) → rxByte u a = rxByte s a) ∧
        (crc16 s.params.rxCrc (rxMessage u) ≠ s.rxCrcExp →
          exec (.pktCont chunk) s = .next { u with rxState := .idle, rxLast := 0x02#8 }) ∧
        (crc16 s.params.rxCrc (rxMessage u) = s.rxCrcExp →
          ∃ i, decode .message (rxMessage u) = .ok i ∧ exec (.pktCont chunk) s = exec i u))

/-- R192: the outcome of a message with opcode `op` and `payload` after it, for the meaning of every message of the opcode table. -/
def Obligations.MessageIsClassified : Prop :=
  ∀ (s : State) (payload : List Byte) (op : Byte) (i : Instr),
    ((i = .msgDfu payload ∧ op = 0x00#8) ∨ (i = .msgWritePage payload ∧ op = 0x01#8) ∨
     (i = .msgActivateLayout payload ∧ op = 0x02#8) ∨ (i = .msgDeactivateLayout payload ∧ op = 0x03#8) ∨
     i = .msgUnknown op payload) →
    (tableLength s.params.msgTable op = none → exec i s = .next { s with rxState := .idle, rxLast := 0x08#8 }) ∧
    (∀ n, tableLength s.params.msgTable op = some n → payload.length + 1 ≠ n →
      exec i s = .next { s with rxState := .idle, rxLast := 0x06#8 }) ∧
    (tableLength s.params.msgTable op = some (payload.length + 1) →
      exec i s = .next { s with rxState := .executing, rxBusyHit := false })

/-- R197 to R200 and R192's corner cases, under the default `MSG_TABLE` of R13. -/
def Obligations.DefaultMessages : Prop :=
  (decode .message [0x00#8] = .ok (.msgDfu []) ∧ decode .message [0x02#8] = .ok (.msgActivateLayout []) ∧
   decode .message [0x03#8] = .ok (.msgDeactivateLayout [])) ∧
  (∀ (index : Byte) (page : List Byte), page.length = 128 → decode .message (0x01#8 :: index :: page) = .ok (.msgWritePage (index :: page))) ∧
  ∀ s : State, s.params.msgTable = defaultMsgTable →
    (∀ i ∈ [Instr.msgDfu [], .msgActivateLayout [], .msgDeactivateLayout []],
      exec i s = .next { s with rxState := .executing, rxBusyHit := false }) ∧
    (∀ payload : List Byte, payload ≠ [] → ∀ i ∈ [Instr.msgDfu payload, .msgActivateLayout payload, .msgDeactivateLayout payload],
      exec i s = .next { s with rxState := .idle, rxLast := 0x06#8 }) ∧
    (∀ payload : List Byte, exec (.msgWritePage payload) s =
      if payload.length = 129 then .next { s with rxState := .executing, rxBusyHit := false }
      else .next { s with rxState := .idle, rxLast := 0x06#8 }) ∧
    (∀ (op : Byte) (payload : List Byte), 0x04 ≤ op.toNat →
      exec (.msgUnknown op payload) s = .next { s with rxState := .idle, rxLast := 0x08#8 })

/-- R154: a malformed Start outside execution. -/
def Obligations.MalformedStartIsMessageError : Prop :=
  ∀ s : State, s.rxState ≠ .executing →
    (∀ rest, exec (.pktStartShort rest) s = .next { s with rxState := .idle, rxLast := 0x06#8 }) ∧
    (∀ crc chunk, exec (.pktStart 0x00#8 crc chunk) s = .next { s with rxState := .idle, rxLast := 0x06#8 })

/-- R157: a Cont in `RX_IDLE`. -/
def Obligations.ContInIdleIsUnexpected : Prop :=
  ∀ (s : State) (chunk : List Byte), s.rxState = .idle → exec (.pktCont chunk) s = .next { s with rxLast := 0x01#8 }

/-- R158: Start, short Start, Cont and unassigned packets during execution set the busy flag alone; a Ping then still reports 4, and the
executor's completion with result 0 then reports 7. -/
def Obligations.PacketsDuringExecutionAreBusy : Prop :=
  (∀ s : State, s.rxState = .executing →
    (∀ totalLen crc chunk, exec (.pktStart totalLen crc chunk) s = .next { s with rxBusyHit := true }) ∧
    (∀ rest, exec (.pktStartShort rest) s = .next { s with rxBusyHit := true }) ∧
    (∀ chunk, exec (.pktCont chunk) s = .next { s with rxBusyHit := true }) ∧
    (∀ op payload, exec (.pktUnassigned op payload) s = .next { s with rxBusyHit := true }) ∧
    (∀ ignored, exec (.pktPing ignored) s = .next { s with resp := (0x00#8, 0x04#8), respValid := true })) ∧
  (∀ (s : State) (sched : List Turn), s.schedule = .executor 0x00#8 :: sched → s.rxState = .executing → s.rxBusyHit = true →
    step s = .next { s with schedule := sched, rxState := .idle, rxLast := 0x07#8, rxBusyHit := false })

/-- R159: the Reset packet. -/
def Obligations.ResetPacketClearsRx : Prop :=
  ∀ (s : State) (ignored : List Byte),
    (s.rxState = .executing → exec (.pktReset ignored) s = .next s) ∧
    (s.rxState ≠ .executing → exec (.pktReset ignored) s = .next { s with
      rxState := .idle, rxLast := 0x00#8, rxTotal := 0x00#8, rxCount := 0, rxCrcExp := 0x0000#16, rxBusyHit := false })

/-- R163: a packet with an unassigned opcode. -/
def Obligations.UnassignedIsMessageError : Prop :=
  ∀ (s : State) (op : Byte) (payload : List Byte),
    (s.rxState ≠ .executing → exec (.pktUnassigned op payload) s = .next { s with rxState := .idle, rxLast := 0x06#8 }) ∧
    (s.rxState = .executing → exec (.pktUnassigned op payload) s = .next { s with rxBusyHit := true })

/-- R150: the RX step is total, takes exactly the head of `OUTQ`, and drops a zero-length packet with no other change; with `OUTQ` empty
it is held. -/
def Obligations.RxStepIsTotal : Prop :=
  (∀ (s : State) (sched : List Turn) (pkt : Packet) (rest : List Packet), s.schedule = .rx :: sched → s.outq = pkt :: rest →
    ∃ t : State, step s = .next t ∧ t.outq = rest ∧ t.inq = s.inq) ∧
  (∀ s : State, exec .pktEmpty s = .next s) ∧
  (∀ (s : State) (sched : List Turn) (rest : List Packet), s.schedule = .rx :: sched → s.outq = [] :: rest →
    step s = .next { s with schedule := sched, outq := rest }) ∧
  (∀ (s : State) (sched : List Turn), s.schedule = .rx :: sched → s.outq = [] → step s = .next { s with schedule := sched })

/-- R128, R155, R156, R160, R192, R162, R252: the RX engine's turns over a message's packets rebuild exactly the message, leave what follows
on `OUTQ`, and end in CrcError where the RX side's variant gives the message another CRC than the TX side's, else in the outcome R192
gives the message; a Ping then never reports 3. The turns are those of the model's own schedule (log 2). -/
def Obligations.ReassemblyRebuildsMessage : Prop :=
  ∀ (s : State) (op : Byte) (payload : List Byte) (rest : List Packet) (sched : List Turn),
    s.rxState ≠ .executing → payload.length + 1 ≤ 255 → 4 ≤ s.params.p →
    s.outq = frames s.params (op :: payload) ++ rest →
    s.schedule = List.replicate (1 + contFrameCount s.params.p (op :: payload)) .rx ++ sched →
    ∃ t : State, core.run (1 + contFrameCount s.params.p (op :: payload)) s = .next t ∧
      t = { s with outq := rest, schedule := sched, rxbuf := t.rxbuf, rxTotal := t.rxTotal, rxCount := payload.length + 1,
                   rxCrcExp := crc16 s.params.crc (op :: payload), rxState := t.rxState, rxLast := t.rxLast,
                   rxBusyHit := t.rxBusyHit } ∧
      t.rxTotal.toNat = payload.length + 1 ∧ rxMessage t = op :: payload ∧
      (crc16 s.params.rxCrc (op :: payload) ≠ crc16 s.params.crc (op :: payload) →
        t.rxState = .idle ∧ t.rxLast = 0x02#8 ∧ t.rxBusyHit = s.rxBusyHit) ∧
      (crc16 s.params.rxCrc (op :: payload) = crc16 s.params.crc (op :: payload) →
        (tableLength s.params.msgTable op = none → t.rxState = .idle ∧ t.rxLast = 0x08#8 ∧ t.rxBusyHit = s.rxBusyHit) ∧
        (∀ n, tableLength s.params.msgTable op = some n → payload.length + 1 ≠ n →
          t.rxState = .idle ∧ t.rxLast = 0x06#8 ∧ t.rxBusyHit = s.rxBusyHit) ∧
        (tableLength s.params.msgTable op = some (payload.length + 1) →
          t.rxState = .executing ∧ t.rxBusyHit = false ∧ t.rxLast = s.rxLast ∧ executorPort t = some (op :: payload))) ∧
      reportedStatus t ≠ 0x03#8

/-- R252: the TX and RX sides with any two variants. A message sent and received whole, in one run, gets past the CRC check exactly where both
variants happen to give it the same CRC, and the executor is then offered it where `MSG_TABLE` has it; and the rule's example, the packet
of `[0x03]` stamped under CRC-16/ARC. The turns are those of the model's own schedule (log 2), and the SEND that of its `cmdq` (log 3,
log 4). -/
def Obligations.SentMessagePassesOnlyWhereVariantsAgree : Prop :=
  (∀ (s : State) (op : Byte) (payload : List Byte) (rest : List Transaction) (sched : List Turn),
    s.txState = .idle → s.rxState ≠ .executing → s.outq = [] → payload.length + 1 ≤ 255 → 4 ≤ s.params.p →
    s.cmdq = (0x02#8 :: op :: payload) :: rest →
    s.schedule = .host :: List.replicate (1 + contFrameCount s.params.p (op :: payload)) .tx ++
      (List.replicate (1 + contFrameCount s.params.p (op :: payload)) .rx ++ sched) →
    ∃ t : State, core.run (3 + 2 * contFrameCount s.params.p (op :: payload)) s = .next t ∧
      t.txState = .idle ∧ t.txErr = .none ∧ t.outq = [] ∧ rxMessage t = op :: payload ∧
      (crc16 s.params.rxCrc (op :: payload) ≠ crc16 s.params.crc (op :: payload) → t.rxState = .idle ∧ t.rxLast = 0x02#8) ∧
      (crc16 s.params.rxCrc (op :: payload) = crc16 s.params.crc (op :: payload) →
        (tableLength s.params.msgTable op = some (payload.length + 1) →
          t.rxState = .executing ∧ executorPort t = some (op :: payload)) ∧
        (tableLength s.params.msgTable op ≠ some (payload.length + 1) →
          t.rxState = .idle ∧ (t.rxLast = 0x06#8 ∨ t.rxLast = 0x08#8)))) ∧
  crc16 CrcVariant.arc [0x03#8] = 0x0140#16 ∧
  (∀ s : State, s.rxState ≠ .executing → s.params.rxCrc = ⟨0x8005#16, 0xFFFF#16, true, true, 0x0000#16⟩ →
    ∃ t : State, exec (.pktStart 0x01#8 0x0140#16 [0x03#8]) s = .next t ∧ t.rxState = .idle ∧ t.rxLast = 0x02#8) ∧
  (∀ s : State, s.rxState ≠ .executing → s.params.rxCrc = CrcVariant.arc → s.params.msgTable = defaultMsgTable →
    ∃ t : State, exec (.pktStart 0x01#8 0x0140#16 [0x03#8]) s = .next t ∧ executorPort t = some [0x03#8])

/-! ### The other agents -/

/-- R57: the response link step, and a second Ping before it, which overwrites the first response. That the step is taken
under `P = 1` or `P_MAX = 1` too, where the response is longer than R70, or R11 and R18, let a packet be, is the model's choice (log 20). -/
def Obligations.LinkStepMovesResponse : Prop :=
  (∀ (s : State) (sched : List Turn), s.schedule = .link :: sched → s.respValid = true →
    step s = .next { s with schedule := sched, inq := s.inq ++ [[s.resp.1, s.resp.2]], respValid := false }) ∧
  (∀ (s : State) (sched : List Turn), s.schedule = .link :: sched → s.respValid = false →
    step s = .next { s with schedule := sched }) ∧
  (∀ (s t : State) (ignored : List Byte), s.respValid = true → exec (.pktPing ignored) s = .next t →
    t.resp = (0x00#8, reportedStatus s) ∧ t.inq = s.inq)

/-- R194: the executor's completion. -/
def Obligations.ExecutorCompletes : Prop :=
  (∀ (s : State) (sched : List Turn) (r : Byte), s.schedule = .executor r :: sched → s.rxState = .executing →
    step s = .next { s with
      schedule := sched
      rxLast := if r ≠ 0x00#8 then r else if s.rxBusyHit = true then 0x07#8 else 0x00#8
      rxBusyHit := false
      rxState := .idle }) ∧
  (∀ (s : State) (sched : List Turn) (r : Byte), s.schedule = .executor r :: sched → s.rxState ≠ .executing →
    step s = .next { s with schedule := sched })

/-- R164: the environment's packets on `OUTQ`. -/
def Obligations.InjectionBoundedByPMax : Prop :=
  ∀ (s : State) (sched : List Turn) (pkt : Packet), s.schedule = .injectOut pkt :: sched →
    (pkt.length ≤ s.params.pMax → step s = .next { s with schedule := sched, outq := s.outq ++ [pkt] }) ∧
    (s.params.pMax < pkt.length → step s = .refused (.packetTooLong pkt.length))

/-- R44: the reset values the spec states, for any parameters; State.reset has them, under the defaults the spec gives. -/
def Obligations.ResetValues : Prop :=
  (∀ c : Params, ∃ t : State, t = State.resetWith c ∧ t.params = c ∧
    t.crcReg = c.crc.init ∧ t.txState = .idle ∧ t.txLen = 0x00#8 ∧ t.txPos = 0 ∧ t.txStarted = false ∧ t.txCrc = 0x0000#16 ∧
    txErrCode t.txErr = 0x00#8 ∧ t.txStatus = 0x00#8 ∧ t.txStatusValid = false ∧ t.rxState = .idle ∧ t.rxTotal = 0x00#8 ∧
    t.rxCount = 0 ∧ t.rxCrcExp = 0x0000#16 ∧ t.rxLast = 0x00#8 ∧ t.rxBusyHit = false ∧ t.respValid = false ∧
    t.outq = [] ∧ t.inq = []) ∧
  State.reset = State.resetWith State.reset.params ∧ State.reset.params.pMax = 64 ∧
  State.reset.params.crc = ⟨0x8005#16, 0x0000#16, true, true, 0x0000#16⟩ ∧ State.reset.params.rxCrc = State.reset.params.crc ∧
  State.reset.params.msgTable = [(0x00#8, 1), (0x01#8, 130), (0x02#8, 1), (0x03#8, 1)]

/-- R240: hardware reset, in any state. The parameters, the host's waiting commands and the schedule stay, and `cmdReturn` becomes none
(log 8); `RESP`, which R44 leaves unspecified, becomes the model's 00 00 (log 7); no byte of either buffer is listed as written (log 6). -/
def Obligations.HardwareResetRestores : Prop :=
  ∀ (s : State) (sched : List Turn), s.schedule = .hardwareReset :: sched →
    ∃ t : State, step s = .next t ∧
      t = { State.resetWith s.params with cmdq := s.cmdq, schedule := sched, resets := t.resets } ∧
      t.resets = s.resets + 1

/-- R254: in a quiescent state no engine, link or executor step is enabled: a turn of one changes nothing. -/
def Obligations.QuiescentHasNoStep : Prop :=
  ∀ (s : State) (sched : List Turn) (u : Turn), Quiescent s → s.schedule = u :: sched →
    (u = .tx ∨ u = .rx ∨ u = .link ∨ ∃ r, u = .executor r) → step s = .next { s with schedule := sched }

/-- R87: the expansions of the pseudo-instructions. The model's choices (log 16): `poll` carries its loop count, 0 admitted although R87's loop
pings at least once, and a page of another length than R87's 128 bytes is expanded like one of 128. -/
def Obligations.PseudoExpansions : Prop :=
  expandTransactions .msgDfu = [[0x02#8, 0x00#8]] ∧
  (∀ (index : Byte) (page : List Byte), expandTransactions (.msgWritePage index page) = [0x02#8 :: 0x01#8 :: index :: page]) ∧
  expandTransactions .msgActivate = [[0x02#8, 0x02#8]] ∧
  expandTransactions .msgDeactivate = [[0x02#8, 0x03#8]] ∧
  (∀ loops : Nat, expandTransactions (.poll loops) = List.replicate (loops + 1) [0x00#8]) ∧
  (∀ s : State, pollGoesOn s = true ↔ s.txStatus = 0x04#8) ∧
  (∀ s : State, pollSucceeded s = true ↔ s.txStatus = 0x00#8)

/-! ### Frames -/

/-- What a packet on `OUTQ` leaves alone: everything outside the RX registers, the response slot and the stored span of `RXBUF`. The span is
R155's, at offset `RX_COUNT` for a Cont in `RX_RECEIVING` and at offset 0 for an accepted Start. -/
def Obligations.PacketFrame : Prop :=
  ∀ (i : Instr) (s t : State), i.port = .outLink → exec i s = .next t →
    t = { s with rxState := t.rxState, rxbuf := t.rxbuf, rxTotal := t.rxTotal, rxCount := t.rxCount, rxCrcExp := t.rxCrcExp,
                 rxLast := t.rxLast, rxBusyHit := t.rxBusyHit, resp := t.resp, respValid := t.respValid } ∧
    (∀ a, txByte t a = txByte s a) ∧
    (∀ chunk, i = .pktCont chunk → s.rxState = .receiving →
      ∀ a, (a < s.rxCount ∨ s.rxCount + storeCount s chunk ≤ a) → rxByte t a = rxByte s a) ∧
    (∀ totalLen crc chunk, i = .pktStart totalLen crc chunk → s.rxState ≠ .executing → totalLen ≠ 0x00#8 →
      ∀ a, storeCount (s.beginMessage totalLen crc) chunk ≤ a → rxByte t a = rxByte s a) ∧
    ((∀ chunk, i ≠ .pktCont chunk ∨ s.rxState ≠ .receiving) →
      (∀ totalLen crc chunk, i ≠ .pktStart totalLen crc chunk ∨ s.rxState = .executing ∨ totalLen = 0x00#8) →
      ∀ a, rxByte t a = rxByte s a)

/-- What a command leaves alone: the RX path, `INQ`, the status registers, and every byte of both buffers but `TXBUF[0:L]` of an accepted
SEND. -/
def Obligations.CommandFrame : Prop :=
  ∀ (i : Instr) (s t : State), i.port = .command → exec i s = .next t →
    t = { s with crcReg := t.crcReg, txState := t.txState, txbuf := t.txbuf, txLen := t.txLen, txPos := t.txPos,
                 txStarted := t.txStarted, txCrc := t.txCrc, txErr := t.txErr, outq := t.outq, cmdReturn := t.cmdReturn } ∧
    (∀ a, rxByte t a = rxByte s a) ∧
    (∀ m, i = .cmdSend m → ∀ a, m.length ≤ a → txByte t a = txByte s a) ∧
    ((∀ m, i ≠ .cmdSend m) → ∀ a, txByte t a = txByte s a) ∧
    ((∀ b, i ≠ .cmdCrcFeed b) → i ≠ .cmdCrcClear → t.crcReg = s.crcReg)

/-- What a response or a message leaves alone. -/
def Obligations.ResponseAndMessageFrame : Prop :=
  (∀ (i : Instr) (s t : State), i.port = .inLink → exec i s = .next t →
    t = { s with txStatus := t.txStatus, txStatusValid := t.txStatusValid, txErr := t.txErr, txState := t.txState } ∧
    (∀ a, txByte t a = txByte s a) ∧ (∀ a, rxByte t a = rxByte s a)) ∧
  (∀ (i : Instr) (s t : State), i.port = .message → exec i s = .next t →
    t = { s with rxState := t.rxState, rxLast := t.rxLast, rxBusyHit := t.rxBusyHit } ∧
    (∀ a, txByte t a = txByte s a) ∧ (∀ a, rxByte t a = rxByte s a))

/-! ### Whole-machine rules and invariants -/

/-- State.reset meets both invariants, and so does reset with any well-formed parameters. -/
def Obligations.ResetMeetsInvariants : Prop :=
  (Inv State.reset ∧ PingsAccounted State.reset) ∧
  (∀ c : Params, c.wf = true → Inv (State.resetWith c) ∧ PingsAccounted (State.resetWith c))

/-- Every step keeps the invariant: the buffers' canonical form, R34's and R155's bounds, R45's written bytes, R124's packet size, `TX_CRC`
as the CRC of the message being sent, and that what the executor holds passed the CRC and table checks (R61, R192). -/
def Obligations.StepKeepsInv : Prop :=
  ∀ s t : State, Inv s → step s = .next t → Inv t

/-- R133: unless a test injects a Ping or a response, one Ping or its response is under way exactly in `TX_AWAIT`; so `INQ` holds at most
one packet, and only then (under `P = 1` or `P_MAX = 1` by the model's choice, log 20). -/
def Obligations.StepKeepsPingsAccounted : Prop :=
  (∀ s t : State, PingsAccounted s → (∀ u, nextTurn s = some u → u.injectsPing = false) → step s = .next t → PingsAccounted t) ∧
  (∀ s : State, PingsAccounted s → s.inq.length ≤ 1 ∧ (s.inq ≠ [] → s.txState = .await))

/-- R22: no step writes a parameter. -/
def Obligations.ParametersNeverChange : Prop :=
  ∀ s t : State, step s = .next t → t.params = s.params

/-- R61, R193: while the executor holds a message, no step but a hardware reset changes a byte of `RXBUF` or `RX_TOTAL`, and only a
completion ends the offer. -/
def Obligations.OfferIsStable : Prop :=
  ∀ s t : State, s.rxState = .executing → step s = .next t → nextTurn s ≠ some .hardwareReset →
    (∀ a, rxByte t a = rxByte s a) ∧ t.rxTotal = s.rxTotal ∧
    (t.rxState = .executing ∨ ∃ r, nextTurn s = some (.executor r))

/-- R46: which agent may write what. Hardware reset apart, `CRC_REG` changes only in the host's turn, the TX registers only in the host's or
the TX engine's, the status registers only in the TX engine's, the RX registers only in the RX engine's or the executor's, and the
response slot only in the RX engine's or the link's. -/
def Obligations.OnlyOwnersWrite : Prop :=
  ∀ s t : State, step s = .next t → nextTurn s ≠ some .hardwareReset →
    (nextTurn s ≠ some .host → t.crcReg = s.crcReg ∧ t.txbuf = s.txbuf ∧ t.txLen = s.txLen ∧ t.txCrc = s.txCrc) ∧
    (nextTurn s ≠ some .host → nextTurn s ≠ some .tx →
      t.txState = s.txState ∧ t.txPos = s.txPos ∧ t.txStarted = s.txStarted ∧ t.txErr = s.txErr) ∧
    (nextTurn s ≠ some .tx → t.txStatus = s.txStatus ∧ t.txStatusValid = s.txStatusValid) ∧
    (nextTurn s ≠ some .rx →
      t.rxbuf = s.rxbuf ∧ t.rxTotal = s.rxTotal ∧ t.rxCount = s.rxCount ∧ t.rxCrcExp = s.rxCrcExp ∧ t.resp = s.resp) ∧
    (nextTurn s ≠ some .rx → (∀ r, nextTurn s ≠ some (.executor r)) →
      t.rxState = s.rxState ∧ t.rxLast = s.rxLast ∧ t.rxBusyHit = s.rxBusyHit) ∧
    (nextTurn s ≠ some .rx → nextTurn s ≠ some .link → t.respValid = s.respValid)

/-- R36, R215: `RX_LAST` takes only the codes 0, 1, 2, 6, 7, 8 or an executor's own; status 5 comes from an executor alone. It is the status
reported in `RX_IDLE`. -/
def Obligations.RxLastCodes : Prop :=
  (∀ s t : State, step s = .next t → t.rxLast = s.rxLast ∨
    t.rxLast ∈ [0x00#8, 0x01#8, 0x02#8, 0x06#8, 0x07#8, 0x08#8] ∨ nextTurn s = some (.executor t.rxLast)) ∧
  (∀ s : State, s.rxState = .idle → reportedStatus s = s.rxLast)

/-- R43: the host learns RX state only through a response. Two states that differ in the RX registers, `RXBUF`, the response slot alone answer
alike to every turn of the host and the TX engine: the same refusal, or next states that agree in everything else. -/
def Obligations.TxSideIgnoresRxState : Prop :=
  ∀ (s s' : State) (u : Turn) (sched : List Turn),
    s' = { s with rxState := s'.rxState, rxbuf := s'.rxbuf, rxTotal := s'.rxTotal, rxCount := s'.rxCount, rxCrcExp := s'.rxCrcExp,
                  rxLast := s'.rxLast, rxBusyHit := s'.rxBusyHit, resp := s'.resp, respValid := s'.respValid } →
    s.schedule = u :: sched → (u = .host ∨ u = .tx) →
    (∀ r, step s = .refused r → step s' = .refused r) ∧
    (∀ t, step s = .next t → step s' = .next { t with
      rxState := s'.rxState, rxbuf := s'.rxbuf, rxTotal := s'.rxTotal, rxCount := s'.rxCount, rxCrcExp := s'.rxCrcExp,
      rxLast := s'.rxLast, rxBusyHit := s'.rxBusyHit, resp := s'.resp, respValid := s'.respValid })
end

