-- ==== Sys2Proof/Laws/Buffer.lean ====
section
/-! SUPPORT. The laws of the message buffers: read after write, and that every write keeps the canonical form. -/

namespace Sys2Proof.Machine

/-! ### One byte -/

theorem bufLookup_store (buf : Buffer) (x y : Nat) (v : Byte) :
    bufLookup (bufStore buf x v) y = if x = y then some v else bufLookup buf y := by
  induction buf with
  | nil => simp [bufStore, bufLookup]
  | cons cell rest ih =>
    obtain ⟨a, b⟩ := cell
    simp only [bufStore]
    split
    · simp [bufLookup]
    · split
      · next h => subst h; by_cases hy : x = y <;> simp [bufLookup, hy]
      · by_cases ha : a = y
        · subst ha; simp [bufLookup]; omega
        · simp [bufLookup, ha, ih]

theorem bufLookup_write (bs : List Byte) (buf : Buffer) (i a : Nat) :
    bufLookup (bufWrite buf i bs) a =
      if i ≤ a ∧ a < i + bs.length then bs[a - i]? else bufLookup buf a := by
  induction bs generalizing buf i with
  | nil => rw [if_neg (by simp)]; rfl
  | cons v rest ih =>
    simp only [bufWrite, ih, bufLookup_store, List.length_cons]
    rcases Nat.lt_trichotomy i a with h | h | h
    · have hs : a - i = (a - (i + 1)) + 1 := by omega
      rw [hs, List.getElem?_cons_succ, if_neg (show ¬ i = a by omega)]
      by_cases h2 : a < i + (rest.length + 1)
      · rw [if_pos (by omega), if_pos (by omega)]
      · rw [if_neg (by omega), if_neg (by omega)]
    · subst h
      rw [if_neg (by omega), if_pos rfl, if_pos (by omega)]
      simp
    · rw [if_neg (by omega), if_neg (by omega), if_neg (by omega)]

/-- A write stores nothing outside its span. -/
theorem bufLookup_write_outside {bs : List Byte} {buf : Buffer} {i a : Nat} (h : a < i ∨ i + bs.length ≤ a) :
    bufLookup (bufWrite buf i bs) a = bufLookup buf a := by
  rw [bufLookup_write, if_neg]; omega

/-- A write stores its bytes in order. -/
theorem bufLookup_write_inside {bs : List Byte} {buf : Buffer} {i k : Nat} (h : k < bs.length) :
    bufLookup (bufWrite buf i bs) (i + k) = some bs[k] := by
  rw [bufLookup_write, if_pos (by omega)]
  simp [h]

@[simp] theorem bufWrite_nil (buf : Buffer) (i : Nat) : bufWrite buf i [] = buf := rfl

/-! ### The canonical form -/

theorem bufRising_iff (buf : Buffer) : bufRising buf = true ↔ buf.Pairwise fun c d => c.1 < d.1 := by
  induction buf with
  | nil => simp [bufRising]
  | cons c rest ih =>
    obtain ⟨a, v⟩ := c
    cases rest with
    | nil => simp [bufRising]
    | cons d rest =>
      obtain ⟨b, w⟩ := d
      simp only [bufRising, Bool.and_eq_true, decide_eq_true_eq, ih]
      constructor
      · rintro ⟨hab, hp⟩
        refine List.pairwise_cons.2 ⟨?_, hp⟩
        intro e he
        rcases List.mem_cons.1 he with rfl | he
        · exact hab
        · exact lt_trans hab ((List.pairwise_cons.1 hp).1 e he)
      · intro h
        exact ⟨(List.pairwise_cons.1 h).1 (b, w) (by simp), (List.pairwise_cons.1 h).2⟩

theorem mem_bufStore {buf : Buffer} {x : Nat} {v : Byte} {c : Host.Cell} (h : c ∈ bufStore buf x v) :
    c = (x, v) ∨ c ∈ buf := by
  induction buf with
  | nil => simpa [bufStore] using h
  | cons d rest ih =>
    obtain ⟨a, b⟩ := d
    simp only [bufStore] at h
    split at h
    · simpa using h
    · split at h
      · rcases List.mem_cons.1 h with h | h
        · exact .inl h
        · exact .inr (by simp [h])
      · rcases List.mem_cons.1 h with h | h
        · exact .inr (by simp [h])
        · rcases ih h with h | h
          · exact .inl h
          · exact .inr (by simp [h])

theorem bufStore_rising {buf : Buffer} (x : Nat) (v : Byte) (h : bufRising buf = true) :
    bufRising (bufStore buf x v) = true := by
  rw [bufRising_iff] at *
  induction buf with
  | nil => simp [bufStore]
  | cons d rest ih =>
    obtain ⟨a, b⟩ := d
    have hd := List.pairwise_cons.1 h
    simp only [bufStore]
    split
    · next hx =>
      refine List.pairwise_cons.2 ⟨?_, h⟩
      intro e he
      rcases List.mem_cons.1 he with rfl | he
      · exact hx
      · exact lt_trans hx (hd.1 e he)
    · split
      · next hx => subst hx; exact List.pairwise_cons.2 ⟨hd.1, hd.2⟩
      · next hx hne =>
        refine List.pairwise_cons.2 ⟨?_, ih hd.2⟩
        intro e he
        rcases mem_bufStore he with rfl | he
        · show a < x
          omega
        · exact hd.1 e he

theorem bufStore_inRange {buf : Buffer} {x : Nat} (v : Byte) (hx : x < msgMax) (h : bufInRange buf = true) :
    bufInRange (bufStore buf x v) = true := by
  simp only [bufInRange, List.all_eq_true, decide_eq_true_eq] at *
  intro c hc
  rcases mem_bufStore hc with rfl | hc
  · exact hx
  · exact h c hc

/-- Writing one byte of `0..MSG_MAX-1` keeps the canonical form. -/
theorem bufStore_wf {buf : Buffer} {x : Nat} (v : Byte) (hx : x < msgMax) (h : buf.wf = true) :
    (bufStore buf x v).wf = true := by
  simp only [Buffer.wf, Bool.and_eq_true] at *
  exact ⟨bufStore_rising x v h.1, bufStore_inRange v hx h.2⟩

/-- `BufWrite` within `0..MSG_MAX-1` keeps the canonical form. -/
theorem bufWrite_wf (bs : List Byte) {buf : Buffer} {i : Nat} (hi : i + bs.length ≤ msgMax) (h : buf.wf = true) :
    (bufWrite buf i bs).wf = true := by
  induction bs generalizing buf i with
  | nil => exact h
  | cons v rest ih =>
    simp only [List.length_cons] at hi
    exact ih (by omega) (bufStore_wf v (by omega) h)

@[simp] theorem bufWf_nil : Buffer.wf ([] : Buffer) = true := rfl

/-! ### Reading a span -/

theorem bufRead_eq_map (f : Nat → Byte) (i n : Nat) : bufRead f i n = (List.range' i n).map f := by
  induction n generalizing i with
  | zero => rfl
  | succ n ih => simp [bufRead, ih, List.range'_succ]

@[simp] theorem bufRead_length (f : Nat → Byte) (i n : Nat) : (bufRead f i n).length = n := by
  simp [bufRead_eq_map]

theorem bufRead_congr {f g : Nat → Byte} {i n : Nat} (h : ∀ a, i ≤ a → a < i + n → f a = g a) :
    bufRead f i n = bufRead g i n := by
  rw [bufRead_eq_map, bufRead_eq_map]
  refine List.map_congr_left fun a ha => h a ?_ ?_ <;> simp [List.mem_range'] at ha <;> omega

theorem bufRead_append (f : Nat → Byte) (i n m : Nat) :
    bufRead f i (n + m) = bufRead f i n ++ bufRead f (i + n) m := by
  simp only [bufRead_eq_map, ← List.map_append, List.range'_append_1]

/-- A span is the list it lists byte for byte. -/
theorem bufRead_eq_list {f : Nat → Byte} {i : Nat} (bs : List Byte) (h : ∀ k (hk : k < bs.length), f (i + k) = bs[k]) :
    bufRead f i bs.length = bs := by
  apply List.ext_getElem
  · simp
  · intro k h1 h2
    simp only [bufRead_eq_map, List.getElem_map, List.getElem_range', one_mul]
    exact h k h2

theorem bufRead_eq_take_drop {f : Nat → Byte} {bs : List Byte} (h : ∀ k (hk : k < bs.length), f k = bs[k]) {i n : Nat}
    (hn : i + n ≤ bs.length) : bufRead f i n = (bs.drop i).take n := by
  apply List.ext_getElem
  · simp; omega
  · intro k h1 h2
    simp only [bufRead_length] at h1
    simp only [bufRead_eq_map, List.getElem_map, List.getElem_range', one_mul, List.getElem_take, List.getElem_drop]
    exact h (i + k) (by omega)

theorem bufWritten_iff (buf : Buffer) (n : Nat) :
    bufWritten buf n = true ↔ ∀ a, a < n → ∃ v, bufLookup buf a = some v := by
  simp only [bufWritten, List.all_eq_true, List.mem_range, Option.isSome_iff_exists]

/-- Writing at the end of the written part extends it. -/
theorem bufWritten_write {buf : Buffer} {n : Nat} (bs : List Byte) (h : bufWritten buf n = true) :
    bufWritten (bufWrite buf n bs) (n + bs.length) = true := by
  rw [bufWritten_iff] at *
  intro a ha
  rw [bufLookup_write]
  split
  · exact ⟨bs[a - n]'(by omega), by simp⟩
  · exact h a (by omega)

end Sys2Proof.Machine
end

