-- ==== Sys2Proof/Laws/Crc.lean ====
section
/-! SUPPORT. The CRC register as a linear machine: what one shift, several shifts, one byte and a whole sequence do to a difference of
registers, and that a single bit's difference never dies out (R160's remark). -/

namespace Sys2Proof.Machine

/-! ### Linearity -/

theorem crcShift_xor (poly a d : Word) : crcShift poly (a ^^^ d) = crcShift poly a ^^^ crcShift poly d := by
  have hs : (a ^^^ d) <<< 1 = a <<< 1 ^^^ d <<< 1 := BitVec.shiftLeft_xor_distrib ..
  unfold crcShift
  rw [BitVec.getLsbD_xor, hs]
  cases a.getLsbD 15 <;> cases d.getLsbD 15 <;> simp only [Bool.xor_false, Bool.xor_true, Bool.not_true, Bool.not_false,
    Bool.false_eq_true, if_true, if_false]
  · rw [BitVec.xor_assoc]
  · rw [BitVec.xor_assoc, BitVec.xor_assoc, BitVec.xor_comm poly]
  · rw [BitVec.xor_assoc, BitVec.xor_comm poly, BitVec.xor_assoc (d <<< 1), BitVec.xor_self, BitVec.xor_zero]

theorem crcShifts_xor (poly : Word) (n : Nat) (a d : Word) : crcShifts poly n (a ^^^ d) = crcShifts poly n a ^^^ crcShifts poly n d := by
  induction n generalizing a d with
  | zero => rfl
  | succ n ih => simp only [crcShifts, crcShift_xor, ih]

theorem crcShifts_add (poly : Word) (m n : Nat) (a : Word) : crcShifts poly (m + n) a = crcShifts poly n (crcShifts poly m a) := by
  induction m generalizing a with
  | zero => simp [crcShifts]
  | succ m ih => rw [show m + 1 + n = (m + n) + 1 by omega]; simp only [crcShifts, ih]

/-- A byte moves a difference of registers by eight shifts, whatever the byte is. -/
theorem crcStep_xor (v : CrcVariant) (a d : Word) (b : Byte) : crcStep v (a ^^^ d) b = crcStep v a b ^^^ crcShifts v.poly 8 d := by
  unfold crcStep
  rw [← crcShifts_xor, BitVec.xor_assoc, BitVec.xor_comm d, ← BitVec.xor_assoc]

/-- Bytes move a difference of registers by eight shifts each. -/
theorem crcFold_xor (v : CrcVariant) (bytes : List Byte) (a d : Word) :
    bytes.foldl (crcStep v) (a ^^^ d) = bytes.foldl (crcStep v) a ^^^ crcShifts v.poly (8 * bytes.length) d := by
  induction bytes generalizing a d with
  | nil => rfl
  | cons b rest ih =>
    rw [List.foldl_cons, crcStep_xor, ih, List.foldl_cons, ← crcShifts_add, List.length_cons]
    congr 2; omega

/-! ### One bit: the register as a polynomial over the two-element field -/

open Polynomial in
/-- Bit `i` of a register is the coefficient of `X^i`. -/
noncomputable def wordPoly (w : Word) : (ZMod 2)[X] := ∑ i ∈ Finset.range 16, if w.getLsbD i then X ^ i else 0

open Polynomial in
/-- The generator: `poly` with its leading term. -/
noncomputable def generator (poly : Word) : (ZMod 2)[X] := X ^ 16 + wordPoly poly

open Polynomial in
theorem wordPoly_coeff (w : Word) {i : Nat} (hi : i < 16) : (wordPoly w).coeff i = if w.getLsbD i then 1 else 0 := by
  unfold wordPoly
  rw [finsetSum_coeff, Finset.sum_eq_single i]
  · split_ifs <;> simp
  · intro j _ hj; split_ifs <;> simp [coeff_X_pow, Ne.symm hj]
  · intro h; exact absurd (Finset.mem_range.2 hi) h

open Polynomial in
theorem wordPoly_coeff_high (w : Word) {i : Nat} (hi : 16 ≤ i) : (wordPoly w).coeff i = 0 := by
  unfold wordPoly
  rw [finsetSum_coeff]
  refine Finset.sum_eq_zero fun j hj => ?_
  have := Finset.mem_range.1 hj
  split_ifs <;> simp [coeff_X_pow]; omega

theorem bit_add (a b : Bool) : ((if (a ^^ b) then 1 else 0 : ZMod 2)) = (if a then 1 else 0) + (if b then 1 else 0) := by
  cases a <;> cases b <;> decide

theorem crcShift_bit {poly w : Word} {i : Nat} (hi : i < 16) :
    (crcShift poly w).getLsbD i = ((decide (1 ≤ i) && w.getLsbD (i - 1)) ^^ (w.getLsbD 15 && poly.getLsbD i)) := by
  have h : (w <<< 1).getLsbD i = (decide (1 ≤ i) && w.getLsbD (i - 1)) := by
    rw [BitVec.getLsbD_shiftLeft]
    rcases Nat.eq_zero_or_pos i with rfl | h
    · simp
    · simp [hi, Nat.pos_iff_ne_zero.1 h, (by omega : 1 ≤ i)]
  unfold crcShift
  cases w.getLsbD 15
  · simpa using h
  · simp only [if_true, BitVec.getLsbD_xor, h, Bool.true_and]

open Polynomial in
/-- One shift multiplies by `X`, up to a multiple of the generator. -/
theorem wordPoly_shift (poly w : Word) : ∃ q : (ZMod 2)[X], X * wordPoly w = q * generator poly + wordPoly (crcShift poly w) := by
  refine ⟨if w.getLsbD 15 then 1 else 0, ?_⟩
  ext i
  have hg : ∀ i, (generator poly).coeff i = (if i = 16 then 1 else 0) + (wordPoly poly).coeff i := by
    intro i; simp [generator, coeff_X_pow]
  have hq : ∀ (b : Bool), (((if b then 1 else 0 : (ZMod 2)[X])) * generator poly).coeff i = if b then (generator poly).coeff i else 0 := by
    intro b; cases b <;> simp
  rw [coeff_add, hq, hg]
  rcases Nat.lt_or_ge i 16 with hi | hi
  · have h16 : i ≠ 16 := by omega
    rw [wordPoly_coeff _ hi, wordPoly_coeff _ hi, crcShift_bit hi, bit_add, if_neg h16, zero_add]
    cases i with
    | zero => rw [coeff_X_mul_zero, show decide (1 ≤ 0) = false from rfl, Bool.false_and]; generalize w.getLsbD 15 = x, poly.getLsbD 0 = y; revert x y; decide
    | succ i =>
      rw [coeff_X_mul, wordPoly_coeff _ (by omega), Nat.add_sub_cancel, decide_eq_true (by omega : 1 ≤ i + 1)]
      generalize w.getLsbD 15 = x, poly.getLsbD (i + 1) = y, w.getLsbD i = z
      revert x y z; decide
  · rw [wordPoly_coeff_high _ hi, wordPoly_coeff_high _ hi, add_zero, add_zero]
    obtain ⟨i, rfl⟩ : ∃ j, i = j + 1 := ⟨i - 1, by omega⟩
    rw [coeff_X_mul]
    by_cases h : i = 15
    · subst h; rw [wordPoly_coeff _ (by omega)]; simp
    · have h16 : i + 1 ≠ 16 := by omega
      rw [wordPoly_coeff_high _ (by omega), if_neg h16, ite_self]

open Polynomial in
theorem wordPoly_shifts (poly : Word) (n : Nat) (w : Word) :
    ∃ q : (ZMod 2)[X], X ^ n * wordPoly w = q * generator poly + wordPoly (crcShifts poly n w) := by
  induction n generalizing w with
  | zero => exact ⟨0, by simp [crcShifts]⟩
  | succ n ih =>
    obtain ⟨q, hq⟩ := wordPoly_shift poly w
    obtain ⟨r, hr⟩ := ih (crcShift poly w)
    refine ⟨X ^ n * q + r, ?_⟩
    rw [crcShifts, pow_succ, mul_assoc, hq, mul_add, hr]; ring

open Polynomial in
/-- The generator of a polynomial with at least two terms divides no power of `X`, so one set bit never dies out. -/
theorem crcShifts_one_ne_zero {poly : Word} (h : poly ≠ 0x0000#16) (n : Nat) : crcShifts poly n 0x0001#16 ≠ 0x0000#16 := by
  intro h0
  obtain ⟨j, hj, hb⟩ : ∃ j, j < 16 ∧ poly.getLsbD j = true := by
    by_contra hc
    apply h
    apply BitVec.eq_of_getLsbD_eq
    intro i hi
    rw [BitVec.getLsbD_zero]
    by_contra hb
    exact hc ⟨i, hi, by simpa using hb⟩
  have one : wordPoly 0x0001#16 = 1 := by
    ext i
    rcases Nat.lt_or_ge i 16 with hi | hi
    · rw [wordPoly_coeff _ hi, coeff_one]; interval_cases i <;> rfl
    · rw [wordPoly_coeff_high _ hi, coeff_one, if_neg (by omega)]
  have zero : wordPoly 0x0000#16 = 0 := by simp [wordPoly]
  obtain ⟨q, hq⟩ := wordPoly_shifts poly n 0x0001#16
  rw [h0, one, zero, mul_one, add_zero] at hq
  obtain ⟨i, -, u, hu⟩ := (dvd_prime_pow prime_X n).1 (Dvd.intro_left q hq.symm)
  obtain ⟨c, hc, hcu⟩ := Polynomial.isUnit_iff.1 u.isUnit
  have key : ∀ m, (generator poly).coeff m * c = if m = i then 1 else 0 := by
    intro m; rw [← coeff_mul_C, hcu, hu, coeff_X_pow]
  have c1 : c = 1 := (by decide : ∀ x : ZMod 2, IsUnit x → x = 1) c hc
  have g16 : (generator poly).coeff 16 = 1 := by
    rw [generator, coeff_add, coeff_X_pow, if_pos rfl, wordPoly_coeff_high _ (Nat.le_refl _), add_zero]
  have gj : (generator poly).coeff j = 1 := by
    rw [generator, coeff_add, coeff_X_pow, if_neg (by omega), wordPoly_coeff _ hj, hb, if_pos rfl, zero_add]
  have k16 := key 16
  have kj := key j
  rw [g16, c1, mul_one] at k16
  rw [gj, c1, mul_one] at kj
  by_cases h16 : 16 = i
  · rw [if_neg (by omega)] at kj; exact one_ne_zero kj
  · rw [if_neg h16] at k16; exact one_ne_zero k16

end Sys2Proof.Machine
end

