-- ==== Sys2Proof/Laws/Decode.lean ====
section
/-! SUPPORT. Byte order and the small laws of the decoders. -/

namespace Sys2Proof

/-- `from_le16` undoes `le16` (R17, R50). -/
theorem fromLe16_le16 (v : Word) : fromLe16 (v.extractLsb' 0 8) (v.extractLsb' 8 8) = v := by
  apply BitVec.eq_of_getLsbD_eq
  intro i hi
  simp only [fromLe16, BitVec.getLsbD_or, BitVec.getLsbD_setWidth, BitVec.getLsbD_extractLsb', BitVec.getLsbD_shiftLeft]
  by_cases h : i < 8
  · simp [h, hi]
  · have h8 : 8 + (i - 8) = i := by omega
    have h7 : i - 8 < 8 := by omega
    have h16 : i - 8 < 16 := by omega
    simp [h, h8, h7, h16, hi]

/-- `le16` undoes `from_le16` (R17, R50). -/
theorem le16_fromLe16 (lo hi : Byte) : le16 (fromLe16 lo hi) = [lo, hi] := by
  simp only [le16, fromLe16, List.cons.injEq, and_true]
  constructor <;> apply BitVec.eq_of_getLsbD_eq <;> intro i hi
  · simp [hi]
    intro
    omega
  · have h16 : 8 + i < 16 := by omega
    simp [hi, h16]
    try omega

end Sys2Proof
end

