-- ==== Sys2Proof/Laws/State.lean ====
section
/-! SUPPORT. One lemma per field of State for each named update, true by definition. -/

namespace Sys2Proof.Machine

variable (s : State)

/-! ### State.emitOut -/

@[simp] theorem State.emitOut_params (pkt : Packet) : (s.emitOut pkt).params = s.params := rfl
@[simp] theorem State.emitOut_crcReg (pkt : Packet) : (s.emitOut pkt).crcReg = s.crcReg := rfl
@[simp] theorem State.emitOut_txState (pkt : Packet) : (s.emitOut pkt).txState = s.txState := rfl
@[simp] theorem State.emitOut_txbuf (pkt : Packet) : (s.emitOut pkt).txbuf = s.txbuf := rfl
@[simp] theorem State.emitOut_txLen (pkt : Packet) : (s.emitOut pkt).txLen = s.txLen := rfl
@[simp] theorem State.emitOut_txPos (pkt : Packet) : (s.emitOut pkt).txPos = s.txPos := rfl
@[simp] theorem State.emitOut_txStarted (pkt : Packet) : (s.emitOut pkt).txStarted = s.txStarted := rfl
@[simp] theorem State.emitOut_txCrc (pkt : Packet) : (s.emitOut pkt).txCrc = s.txCrc := rfl
@[simp] theorem State.emitOut_txErr (pkt : Packet) : (s.emitOut pkt).txErr = s.txErr := rfl
@[simp] theorem State.emitOut_txStatus (pkt : Packet) : (s.emitOut pkt).txStatus = s.txStatus := rfl
@[simp] theorem State.emitOut_txStatusValid (pkt : Packet) : (s.emitOut pkt).txStatusValid = s.txStatusValid := rfl
@[simp] theorem State.emitOut_rxState (pkt : Packet) : (s.emitOut pkt).rxState = s.rxState := rfl
@[simp] theorem State.emitOut_rxbuf (pkt : Packet) : (s.emitOut pkt).rxbuf = s.rxbuf := rfl
@[simp] theorem State.emitOut_rxTotal (pkt : Packet) : (s.emitOut pkt).rxTotal = s.rxTotal := rfl
@[simp] theorem State.emitOut_rxCount (pkt : Packet) : (s.emitOut pkt).rxCount = s.rxCount := rfl
@[simp] theorem State.emitOut_rxCrcExp (pkt : Packet) : (s.emitOut pkt).rxCrcExp = s.rxCrcExp := rfl
@[simp] theorem State.emitOut_rxLast (pkt : Packet) : (s.emitOut pkt).rxLast = s.rxLast := rfl
@[simp] theorem State.emitOut_rxBusyHit (pkt : Packet) : (s.emitOut pkt).rxBusyHit = s.rxBusyHit := rfl
@[simp] theorem State.emitOut_respValid (pkt : Packet) : (s.emitOut pkt).respValid = s.respValid := rfl
@[simp] theorem State.emitOut_resp (pkt : Packet) : (s.emitOut pkt).resp = s.resp := rfl
@[simp] theorem State.emitOut_outq (pkt : Packet) : (s.emitOut pkt).outq = s.outq ++ [pkt] := rfl
@[simp] theorem State.emitOut_inq (pkt : Packet) : (s.emitOut pkt).inq = s.inq := rfl
@[simp] theorem State.emitOut_cmdq (pkt : Packet) : (s.emitOut pkt).cmdq = s.cmdq := rfl
@[simp] theorem State.emitOut_cmdReturn (pkt : Packet) : (s.emitOut pkt).cmdReturn = s.cmdReturn := rfl
@[simp] theorem State.emitOut_schedule (pkt : Packet) : (s.emitOut pkt).schedule = s.schedule := rfl
@[simp] theorem State.emitOut_resets (pkt : Packet) : (s.emitOut pkt).resets = s.resets := rfl

/-! ### State.emitIn -/

@[simp] theorem State.emitIn_params (pkt : Packet) : (s.emitIn pkt).params = s.params := rfl
@[simp] theorem State.emitIn_crcReg (pkt : Packet) : (s.emitIn pkt).crcReg = s.crcReg := rfl
@[simp] theorem State.emitIn_txState (pkt : Packet) : (s.emitIn pkt).txState = s.txState := rfl
@[simp] theorem State.emitIn_txbuf (pkt : Packet) : (s.emitIn pkt).txbuf = s.txbuf := rfl
@[simp] theorem State.emitIn_txLen (pkt : Packet) : (s.emitIn pkt).txLen = s.txLen := rfl
@[simp] theorem State.emitIn_txPos (pkt : Packet) : (s.emitIn pkt).txPos = s.txPos := rfl
@[simp] theorem State.emitIn_txStarted (pkt : Packet) : (s.emitIn pkt).txStarted = s.txStarted := rfl
@[simp] theorem State.emitIn_txCrc (pkt : Packet) : (s.emitIn pkt).txCrc = s.txCrc := rfl
@[simp] theorem State.emitIn_txErr (pkt : Packet) : (s.emitIn pkt).txErr = s.txErr := rfl
@[simp] theorem State.emitIn_txStatus (pkt : Packet) : (s.emitIn pkt).txStatus = s.txStatus := rfl
@[simp] theorem State.emitIn_txStatusValid (pkt : Packet) : (s.emitIn pkt).txStatusValid = s.txStatusValid := rfl
@[simp] theorem State.emitIn_rxState (pkt : Packet) : (s.emitIn pkt).rxState = s.rxState := rfl
@[simp] theorem State.emitIn_rxbuf (pkt : Packet) : (s.emitIn pkt).rxbuf = s.rxbuf := rfl
@[simp] theorem State.emitIn_rxTotal (pkt : Packet) : (s.emitIn pkt).rxTotal = s.rxTotal := rfl
@[simp] theorem State.emitIn_rxCount (pkt : Packet) : (s.emitIn pkt).rxCount = s.rxCount := rfl
@[simp] theorem State.emitIn_rxCrcExp (pkt : Packet) : (s.emitIn pkt).rxCrcExp = s.rxCrcExp := rfl
@[simp] theorem State.emitIn_rxLast (pkt : Packet) : (s.emitIn pkt).rxLast = s.rxLast := rfl
@[simp] theorem State.emitIn_rxBusyHit (pkt : Packet) : (s.emitIn pkt).rxBusyHit = s.rxBusyHit := rfl
@[simp] theorem State.emitIn_respValid (pkt : Packet) : (s.emitIn pkt).respValid = s.respValid := rfl
@[simp] theorem State.emitIn_resp (pkt : Packet) : (s.emitIn pkt).resp = s.resp := rfl
@[simp] theorem State.emitIn_outq (pkt : Packet) : (s.emitIn pkt).outq = s.outq := rfl
@[simp] theorem State.emitIn_inq (pkt : Packet) : (s.emitIn pkt).inq = s.inq ++ [pkt] := rfl
@[simp] theorem State.emitIn_cmdq (pkt : Packet) : (s.emitIn pkt).cmdq = s.cmdq := rfl
@[simp] theorem State.emitIn_cmdReturn (pkt : Packet) : (s.emitIn pkt).cmdReturn = s.cmdReturn := rfl
@[simp] theorem State.emitIn_schedule (pkt : Packet) : (s.emitIn pkt).schedule = s.schedule := rfl
@[simp] theorem State.emitIn_resets (pkt : Packet) : (s.emitIn pkt).resets = s.resets := rfl

/-! ### State.txRecord -/

@[simp] theorem State.txRecord_params (e : TxErr) : (s.txRecord e).params = s.params := rfl
@[simp] theorem State.txRecord_crcReg (e : TxErr) : (s.txRecord e).crcReg = s.crcReg := rfl
@[simp] theorem State.txRecord_txState (e : TxErr) : (s.txRecord e).txState = s.txState := rfl
@[simp] theorem State.txRecord_txbuf (e : TxErr) : (s.txRecord e).txbuf = s.txbuf := rfl
@[simp] theorem State.txRecord_txLen (e : TxErr) : (s.txRecord e).txLen = s.txLen := rfl
@[simp] theorem State.txRecord_txPos (e : TxErr) : (s.txRecord e).txPos = s.txPos := rfl
@[simp] theorem State.txRecord_txStarted (e : TxErr) : (s.txRecord e).txStarted = s.txStarted := rfl
@[simp] theorem State.txRecord_txCrc (e : TxErr) : (s.txRecord e).txCrc = s.txCrc := rfl
@[simp] theorem State.txRecord_txErr (e : TxErr) : (s.txRecord e).txErr = e := rfl
@[simp] theorem State.txRecord_txStatus (e : TxErr) : (s.txRecord e).txStatus = s.txStatus := rfl
@[simp] theorem State.txRecord_txStatusValid (e : TxErr) : (s.txRecord e).txStatusValid = s.txStatusValid := rfl
@[simp] theorem State.txRecord_rxState (e : TxErr) : (s.txRecord e).rxState = s.rxState := rfl
@[simp] theorem State.txRecord_rxbuf (e : TxErr) : (s.txRecord e).rxbuf = s.rxbuf := rfl
@[simp] theorem State.txRecord_rxTotal (e : TxErr) : (s.txRecord e).rxTotal = s.rxTotal := rfl
@[simp] theorem State.txRecord_rxCount (e : TxErr) : (s.txRecord e).rxCount = s.rxCount := rfl
@[simp] theorem State.txRecord_rxCrcExp (e : TxErr) : (s.txRecord e).rxCrcExp = s.rxCrcExp := rfl
@[simp] theorem State.txRecord_rxLast (e : TxErr) : (s.txRecord e).rxLast = s.rxLast := rfl
@[simp] theorem State.txRecord_rxBusyHit (e : TxErr) : (s.txRecord e).rxBusyHit = s.rxBusyHit := rfl
@[simp] theorem State.txRecord_respValid (e : TxErr) : (s.txRecord e).respValid = s.respValid := rfl
@[simp] theorem State.txRecord_resp (e : TxErr) : (s.txRecord e).resp = s.resp := rfl
@[simp] theorem State.txRecord_outq (e : TxErr) : (s.txRecord e).outq = s.outq := rfl
@[simp] theorem State.txRecord_inq (e : TxErr) : (s.txRecord e).inq = s.inq := rfl
@[simp] theorem State.txRecord_cmdq (e : TxErr) : (s.txRecord e).cmdq = s.cmdq := rfl
@[simp] theorem State.txRecord_cmdReturn (e : TxErr) : (s.txRecord e).cmdReturn = s.cmdReturn := rfl
@[simp] theorem State.txRecord_schedule (e : TxErr) : (s.txRecord e).schedule = s.schedule := rfl
@[simp] theorem State.txRecord_resets (e : TxErr) : (s.txRecord e).resets = s.resets := rfl

/-! ### State.rxRecord -/

@[simp] theorem State.rxRecord_params (code : Byte) : (s.rxRecord code).params = s.params := rfl
@[simp] theorem State.rxRecord_crcReg (code : Byte) : (s.rxRecord code).crcReg = s.crcReg := rfl
@[simp] theorem State.rxRecord_txState (code : Byte) : (s.rxRecord code).txState = s.txState := rfl
@[simp] theorem State.rxRecord_txbuf (code : Byte) : (s.rxRecord code).txbuf = s.txbuf := rfl
@[simp] theorem State.rxRecord_txLen (code : Byte) : (s.rxRecord code).txLen = s.txLen := rfl
@[simp] theorem State.rxRecord_txPos (code : Byte) : (s.rxRecord code).txPos = s.txPos := rfl
@[simp] theorem State.rxRecord_txStarted (code : Byte) : (s.rxRecord code).txStarted = s.txStarted := rfl
@[simp] theorem State.rxRecord_txCrc (code : Byte) : (s.rxRecord code).txCrc = s.txCrc := rfl
@[simp] theorem State.rxRecord_txErr (code : Byte) : (s.rxRecord code).txErr = s.txErr := rfl
@[simp] theorem State.rxRecord_txStatus (code : Byte) : (s.rxRecord code).txStatus = s.txStatus := rfl
@[simp] theorem State.rxRecord_txStatusValid (code : Byte) : (s.rxRecord code).txStatusValid = s.txStatusValid := rfl
@[simp] theorem State.rxRecord_rxState (code : Byte) : (s.rxRecord code).rxState = .idle := rfl
@[simp] theorem State.rxRecord_rxbuf (code : Byte) : (s.rxRecord code).rxbuf = s.rxbuf := rfl
@[simp] theorem State.rxRecord_rxTotal (code : Byte) : (s.rxRecord code).rxTotal = s.rxTotal := rfl
@[simp] theorem State.rxRecord_rxCount (code : Byte) : (s.rxRecord code).rxCount = s.rxCount := rfl
@[simp] theorem State.rxRecord_rxCrcExp (code : Byte) : (s.rxRecord code).rxCrcExp = s.rxCrcExp := rfl
@[simp] theorem State.rxRecord_rxLast (code : Byte) : (s.rxRecord code).rxLast = code := rfl
@[simp] theorem State.rxRecord_rxBusyHit (code : Byte) : (s.rxRecord code).rxBusyHit = s.rxBusyHit := rfl
@[simp] theorem State.rxRecord_respValid (code : Byte) : (s.rxRecord code).respValid = s.respValid := rfl
@[simp] theorem State.rxRecord_resp (code : Byte) : (s.rxRecord code).resp = s.resp := rfl
@[simp] theorem State.rxRecord_outq (code : Byte) : (s.rxRecord code).outq = s.outq := rfl
@[simp] theorem State.rxRecord_inq (code : Byte) : (s.rxRecord code).inq = s.inq := rfl
@[simp] theorem State.rxRecord_cmdq (code : Byte) : (s.rxRecord code).cmdq = s.cmdq := rfl
@[simp] theorem State.rxRecord_cmdReturn (code : Byte) : (s.rxRecord code).cmdReturn = s.cmdReturn := rfl
@[simp] theorem State.rxRecord_schedule (code : Byte) : (s.rxRecord code).schedule = s.schedule := rfl
@[simp] theorem State.rxRecord_resets (code : Byte) : (s.rxRecord code).resets = s.resets := rfl

/-! ### State.appendChunk -/

@[simp] theorem State.appendChunk_params (chunk : List Byte) : (s.appendChunk chunk).params = s.params := rfl
@[simp] theorem State.appendChunk_crcReg (chunk : List Byte) : (s.appendChunk chunk).crcReg = s.crcReg := rfl
@[simp] theorem State.appendChunk_txState (chunk : List Byte) : (s.appendChunk chunk).txState = s.txState := rfl
@[simp] theorem State.appendChunk_txbuf (chunk : List Byte) : (s.appendChunk chunk).txbuf = s.txbuf := rfl
@[simp] theorem State.appendChunk_txLen (chunk : List Byte) : (s.appendChunk chunk).txLen = s.txLen := rfl
@[simp] theorem State.appendChunk_txPos (chunk : List Byte) : (s.appendChunk chunk).txPos = s.txPos := rfl
@[simp] theorem State.appendChunk_txStarted (chunk : List Byte) : (s.appendChunk chunk).txStarted = s.txStarted := rfl
@[simp] theorem State.appendChunk_txCrc (chunk : List Byte) : (s.appendChunk chunk).txCrc = s.txCrc := rfl
@[simp] theorem State.appendChunk_txErr (chunk : List Byte) : (s.appendChunk chunk).txErr = s.txErr := rfl
@[simp] theorem State.appendChunk_txStatus (chunk : List Byte) : (s.appendChunk chunk).txStatus = s.txStatus := rfl
@[simp] theorem State.appendChunk_txStatusValid (chunk : List Byte) : (s.appendChunk chunk).txStatusValid = s.txStatusValid := rfl
@[simp] theorem State.appendChunk_rxState (chunk : List Byte) : (s.appendChunk chunk).rxState = s.rxState := rfl
@[simp] theorem State.appendChunk_rxbuf (chunk : List Byte) : (s.appendChunk chunk).rxbuf = bufWrite s.rxbuf s.rxCount (chunk.take (storeCount s chunk)) := rfl
@[simp] theorem State.appendChunk_rxTotal (chunk : List Byte) : (s.appendChunk chunk).rxTotal = s.rxTotal := rfl
@[simp] theorem State.appendChunk_rxCount (chunk : List Byte) : (s.appendChunk chunk).rxCount = s.rxCount + storeCount s chunk := rfl
@[simp] theorem State.appendChunk_rxCrcExp (chunk : List Byte) : (s.appendChunk chunk).rxCrcExp = s.rxCrcExp := rfl
@[simp] theorem State.appendChunk_rxLast (chunk : List Byte) : (s.appendChunk chunk).rxLast = s.rxLast := rfl
@[simp] theorem State.appendChunk_rxBusyHit (chunk : List Byte) : (s.appendChunk chunk).rxBusyHit = s.rxBusyHit := rfl
@[simp] theorem State.appendChunk_respValid (chunk : List Byte) : (s.appendChunk chunk).respValid = s.respValid := rfl
@[simp] theorem State.appendChunk_resp (chunk : List Byte) : (s.appendChunk chunk).resp = s.resp := rfl
@[simp] theorem State.appendChunk_outq (chunk : List Byte) : (s.appendChunk chunk).outq = s.outq := rfl
@[simp] theorem State.appendChunk_inq (chunk : List Byte) : (s.appendChunk chunk).inq = s.inq := rfl
@[simp] theorem State.appendChunk_cmdq (chunk : List Byte) : (s.appendChunk chunk).cmdq = s.cmdq := rfl
@[simp] theorem State.appendChunk_cmdReturn (chunk : List Byte) : (s.appendChunk chunk).cmdReturn = s.cmdReturn := rfl
@[simp] theorem State.appendChunk_schedule (chunk : List Byte) : (s.appendChunk chunk).schedule = s.schedule := rfl
@[simp] theorem State.appendChunk_resets (chunk : List Byte) : (s.appendChunk chunk).resets = s.resets := rfl

/-! ### State.beginMessage -/

@[simp] theorem State.beginMessage_params (totalLen : Byte) (crc : Word) : (s.beginMessage totalLen crc).params = s.params := rfl
@[simp] theorem State.beginMessage_crcReg (totalLen : Byte) (crc : Word) : (s.beginMessage totalLen crc).crcReg = s.crcReg := rfl
@[simp] theorem State.beginMessage_txState (totalLen : Byte) (crc : Word) : (s.beginMessage totalLen crc).txState = s.txState := rfl
@[simp] theorem State.beginMessage_txbuf (totalLen : Byte) (crc : Word) : (s.beginMessage totalLen crc).txbuf = s.txbuf := rfl
@[simp] theorem State.beginMessage_txLen (totalLen : Byte) (crc : Word) : (s.beginMessage totalLen crc).txLen = s.txLen := rfl
@[simp] theorem State.beginMessage_txPos (totalLen : Byte) (crc : Word) : (s.beginMessage totalLen crc).txPos = s.txPos := rfl
@[simp] theorem State.beginMessage_txStarted (totalLen : Byte) (crc : Word) : (s.beginMessage totalLen crc).txStarted = s.txStarted := rfl
@[simp] theorem State.beginMessage_txCrc (totalLen : Byte) (crc : Word) : (s.beginMessage totalLen crc).txCrc = s.txCrc := rfl
@[simp] theorem State.beginMessage_txErr (totalLen : Byte) (crc : Word) : (s.beginMessage totalLen crc).txErr = s.txErr := rfl
@[simp] theorem State.beginMessage_txStatus (totalLen : Byte) (crc : Word) : (s.beginMessage totalLen crc).txStatus = s.txStatus := rfl
@[simp] theorem State.beginMessage_txStatusValid (totalLen : Byte) (crc : Word) : (s.beginMessage totalLen crc).txStatusValid = s.txStatusValid := rfl
@[simp] theorem State.beginMessage_rxState (totalLen : Byte) (crc : Word) : (s.beginMessage totalLen crc).rxState = s.rxState := rfl
@[simp] theorem State.beginMessage_rxbuf (totalLen : Byte) (crc : Word) : (s.beginMessage totalLen crc).rxbuf = s.rxbuf := rfl
@[simp] theorem State.beginMessage_rxTotal (totalLen : Byte) (crc : Word) : (s.beginMessage totalLen crc).rxTotal = totalLen := rfl
@[simp] theorem State.beginMessage_rxCount (totalLen : Byte) (crc : Word) : (s.beginMessage totalLen crc).rxCount = 0 := rfl
@[simp] theorem State.beginMessage_rxCrcExp (totalLen : Byte) (crc : Word) : (s.beginMessage totalLen crc).rxCrcExp = crc := rfl
@[simp] theorem State.beginMessage_rxLast (totalLen : Byte) (crc : Word) : (s.beginMessage totalLen crc).rxLast = s.rxLast := rfl
@[simp] theorem State.beginMessage_rxBusyHit (totalLen : Byte) (crc : Word) : (s.beginMessage totalLen crc).rxBusyHit = s.rxBusyHit := rfl
@[simp] theorem State.beginMessage_respValid (totalLen : Byte) (crc : Word) : (s.beginMessage totalLen crc).respValid = s.respValid := rfl
@[simp] theorem State.beginMessage_resp (totalLen : Byte) (crc : Word) : (s.beginMessage totalLen crc).resp = s.resp := rfl
@[simp] theorem State.beginMessage_outq (totalLen : Byte) (crc : Word) : (s.beginMessage totalLen crc).outq = s.outq := rfl
@[simp] theorem State.beginMessage_inq (totalLen : Byte) (crc : Word) : (s.beginMessage totalLen crc).inq = s.inq := rfl
@[simp] theorem State.beginMessage_cmdq (totalLen : Byte) (crc : Word) : (s.beginMessage totalLen crc).cmdq = s.cmdq := rfl
@[simp] theorem State.beginMessage_cmdReturn (totalLen : Byte) (crc : Word) : (s.beginMessage totalLen crc).cmdReturn = s.cmdReturn := rfl
@[simp] theorem State.beginMessage_schedule (totalLen : Byte) (crc : Word) : (s.beginMessage totalLen crc).schedule = s.schedule := rfl
@[simp] theorem State.beginMessage_resets (totalLen : Byte) (crc : Word) : (s.beginMessage totalLen crc).resets = s.resets := rfl

/-! ### State.startExecuting -/

@[simp] theorem State.startExecuting_params : (s.startExecuting).params = s.params := rfl
@[simp] theorem State.startExecuting_crcReg : (s.startExecuting).crcReg = s.crcReg := rfl
@[simp] theorem State.startExecuting_txState : (s.startExecuting).txState = s.txState := rfl
@[simp] theorem State.startExecuting_txbuf : (s.startExecuting).txbuf = s.txbuf := rfl
@[simp] theorem State.startExecuting_txLen : (s.startExecuting).txLen = s.txLen := rfl
@[simp] theorem State.startExecuting_txPos : (s.startExecuting).txPos = s.txPos := rfl
@[simp] theorem State.startExecuting_txStarted : (s.startExecuting).txStarted = s.txStarted := rfl
@[simp] theorem State.startExecuting_txCrc : (s.startExecuting).txCrc = s.txCrc := rfl
@[simp] theorem State.startExecuting_txErr : (s.startExecuting).txErr = s.txErr := rfl
@[simp] theorem State.startExecuting_txStatus : (s.startExecuting).txStatus = s.txStatus := rfl
@[simp] theorem State.startExecuting_txStatusValid : (s.startExecuting).txStatusValid = s.txStatusValid := rfl
@[simp] theorem State.startExecuting_rxState : (s.startExecuting).rxState = .executing := rfl
@[simp] theorem State.startExecuting_rxbuf : (s.startExecuting).rxbuf = s.rxbuf := rfl
@[simp] theorem State.startExecuting_rxTotal : (s.startExecuting).rxTotal = s.rxTotal := rfl
@[simp] theorem State.startExecuting_rxCount : (s.startExecuting).rxCount = s.rxCount := rfl
@[simp] theorem State.startExecuting_rxCrcExp : (s.startExecuting).rxCrcExp = s.rxCrcExp := rfl
@[simp] theorem State.startExecuting_rxLast : (s.startExecuting).rxLast = s.rxLast := rfl
@[simp] theorem State.startExecuting_rxBusyHit : (s.startExecuting).rxBusyHit = false := rfl
@[simp] theorem State.startExecuting_respValid : (s.startExecuting).respValid = s.respValid := rfl
@[simp] theorem State.startExecuting_resp : (s.startExecuting).resp = s.resp := rfl
@[simp] theorem State.startExecuting_outq : (s.startExecuting).outq = s.outq := rfl
@[simp] theorem State.startExecuting_inq : (s.startExecuting).inq = s.inq := rfl
@[simp] theorem State.startExecuting_cmdq : (s.startExecuting).cmdq = s.cmdq := rfl
@[simp] theorem State.startExecuting_cmdReturn : (s.startExecuting).cmdReturn = s.cmdReturn := rfl
@[simp] theorem State.startExecuting_schedule : (s.startExecuting).schedule = s.schedule := rfl
@[simp] theorem State.startExecuting_resets : (s.startExecuting).resets = s.resets := rfl

/-! ### State.answerPing -/

@[simp] theorem State.answerPing_params : (s.answerPing).params = s.params := rfl
@[simp] theorem State.answerPing_crcReg : (s.answerPing).crcReg = s.crcReg := rfl
@[simp] theorem State.answerPing_txState : (s.answerPing).txState = s.txState := rfl
@[simp] theorem State.answerPing_txbuf : (s.answerPing).txbuf = s.txbuf := rfl
@[simp] theorem State.answerPing_txLen : (s.answerPing).txLen = s.txLen := rfl
@[simp] theorem State.answerPing_txPos : (s.answerPing).txPos = s.txPos := rfl
@[simp] theorem State.answerPing_txStarted : (s.answerPing).txStarted = s.txStarted := rfl
@[simp] theorem State.answerPing_txCrc : (s.answerPing).txCrc = s.txCrc := rfl
@[simp] theorem State.answerPing_txErr : (s.answerPing).txErr = s.txErr := rfl
@[simp] theorem State.answerPing_txStatus : (s.answerPing).txStatus = s.txStatus := rfl
@[simp] theorem State.answerPing_txStatusValid : (s.answerPing).txStatusValid = s.txStatusValid := rfl
@[simp] theorem State.answerPing_rxState : (s.answerPing).rxState = s.rxState := rfl
@[simp] theorem State.answerPing_rxbuf : (s.answerPing).rxbuf = s.rxbuf := rfl
@[simp] theorem State.answerPing_rxTotal : (s.answerPing).rxTotal = s.rxTotal := rfl
@[simp] theorem State.answerPing_rxCount : (s.answerPing).rxCount = s.rxCount := rfl
@[simp] theorem State.answerPing_rxCrcExp : (s.answerPing).rxCrcExp = s.rxCrcExp := rfl
@[simp] theorem State.answerPing_rxLast : (s.answerPing).rxLast = s.rxLast := rfl
@[simp] theorem State.answerPing_rxBusyHit : (s.answerPing).rxBusyHit = s.rxBusyHit := rfl
@[simp] theorem State.answerPing_respValid : (s.answerPing).respValid = true := rfl
@[simp] theorem State.answerPing_resp : (s.answerPing).resp = (0x00#8, reportedStatus s) := rfl
@[simp] theorem State.answerPing_outq : (s.answerPing).outq = s.outq := rfl
@[simp] theorem State.answerPing_inq : (s.answerPing).inq = s.inq := rfl
@[simp] theorem State.answerPing_cmdq : (s.answerPing).cmdq = s.cmdq := rfl
@[simp] theorem State.answerPing_cmdReturn : (s.answerPing).cmdReturn = s.cmdReturn := rfl
@[simp] theorem State.answerPing_schedule : (s.answerPing).schedule = s.schedule := rfl
@[simp] theorem State.answerPing_resets : (s.answerPing).resets = s.resets := rfl

/-! ### State.noteBusy -/

@[simp] theorem State.noteBusy_params : (s.noteBusy).params = s.params := rfl
@[simp] theorem State.noteBusy_crcReg : (s.noteBusy).crcReg = s.crcReg := rfl
@[simp] theorem State.noteBusy_txState : (s.noteBusy).txState = s.txState := rfl
@[simp] theorem State.noteBusy_txbuf : (s.noteBusy).txbuf = s.txbuf := rfl
@[simp] theorem State.noteBusy_txLen : (s.noteBusy).txLen = s.txLen := rfl
@[simp] theorem State.noteBusy_txPos : (s.noteBusy).txPos = s.txPos := rfl
@[simp] theorem State.noteBusy_txStarted : (s.noteBusy).txStarted = s.txStarted := rfl
@[simp] theorem State.noteBusy_txCrc : (s.noteBusy).txCrc = s.txCrc := rfl
@[simp] theorem State.noteBusy_txErr : (s.noteBusy).txErr = s.txErr := rfl
@[simp] theorem State.noteBusy_txStatus : (s.noteBusy).txStatus = s.txStatus := rfl
@[simp] theorem State.noteBusy_txStatusValid : (s.noteBusy).txStatusValid = s.txStatusValid := rfl
@[simp] theorem State.noteBusy_rxState : (s.noteBusy).rxState = s.rxState := rfl
@[simp] theorem State.noteBusy_rxbuf : (s.noteBusy).rxbuf = s.rxbuf := rfl
@[simp] theorem State.noteBusy_rxTotal : (s.noteBusy).rxTotal = s.rxTotal := rfl
@[simp] theorem State.noteBusy_rxCount : (s.noteBusy).rxCount = s.rxCount := rfl
@[simp] theorem State.noteBusy_rxCrcExp : (s.noteBusy).rxCrcExp = s.rxCrcExp := rfl
@[simp] theorem State.noteBusy_rxLast : (s.noteBusy).rxLast = s.rxLast := rfl
@[simp] theorem State.noteBusy_rxBusyHit : (s.noteBusy).rxBusyHit = true := rfl
@[simp] theorem State.noteBusy_respValid : (s.noteBusy).respValid = s.respValid := rfl
@[simp] theorem State.noteBusy_resp : (s.noteBusy).resp = s.resp := rfl
@[simp] theorem State.noteBusy_outq : (s.noteBusy).outq = s.outq := rfl
@[simp] theorem State.noteBusy_inq : (s.noteBusy).inq = s.inq := rfl
@[simp] theorem State.noteBusy_cmdq : (s.noteBusy).cmdq = s.cmdq := rfl
@[simp] theorem State.noteBusy_cmdReturn : (s.noteBusy).cmdReturn = s.cmdReturn := rfl
@[simp] theorem State.noteBusy_schedule : (s.noteBusy).schedule = s.schedule := rfl
@[simp] theorem State.noteBusy_resets : (s.noteBusy).resets = s.resets := rfl

/-! ### State.resetRx -/

@[simp] theorem State.resetRx_params : (s.resetRx).params = s.params := rfl
@[simp] theorem State.resetRx_crcReg : (s.resetRx).crcReg = s.crcReg := rfl
@[simp] theorem State.resetRx_txState : (s.resetRx).txState = s.txState := rfl
@[simp] theorem State.resetRx_txbuf : (s.resetRx).txbuf = s.txbuf := rfl
@[simp] theorem State.resetRx_txLen : (s.resetRx).txLen = s.txLen := rfl
@[simp] theorem State.resetRx_txPos : (s.resetRx).txPos = s.txPos := rfl
@[simp] theorem State.resetRx_txStarted : (s.resetRx).txStarted = s.txStarted := rfl
@[simp] theorem State.resetRx_txCrc : (s.resetRx).txCrc = s.txCrc := rfl
@[simp] theorem State.resetRx_txErr : (s.resetRx).txErr = s.txErr := rfl
@[simp] theorem State.resetRx_txStatus : (s.resetRx).txStatus = s.txStatus := rfl
@[simp] theorem State.resetRx_txStatusValid : (s.resetRx).txStatusValid = s.txStatusValid := rfl
@[simp] theorem State.resetRx_rxState : (s.resetRx).rxState = .idle := rfl
@[simp] theorem State.resetRx_rxbuf : (s.resetRx).rxbuf = s.rxbuf := rfl
@[simp] theorem State.resetRx_rxTotal : (s.resetRx).rxTotal = 0#8 := rfl
@[simp] theorem State.resetRx_rxCount : (s.resetRx).rxCount = 0 := rfl
@[simp] theorem State.resetRx_rxCrcExp : (s.resetRx).rxCrcExp = 0#16 := rfl
@[simp] theorem State.resetRx_rxLast : (s.resetRx).rxLast = stIdle := rfl
@[simp] theorem State.resetRx_rxBusyHit : (s.resetRx).rxBusyHit = false := rfl
@[simp] theorem State.resetRx_respValid : (s.resetRx).respValid = s.respValid := rfl
@[simp] theorem State.resetRx_resp : (s.resetRx).resp = s.resp := rfl
@[simp] theorem State.resetRx_outq : (s.resetRx).outq = s.outq := rfl
@[simp] theorem State.resetRx_inq : (s.resetRx).inq = s.inq := rfl
@[simp] theorem State.resetRx_cmdq : (s.resetRx).cmdq = s.cmdq := rfl
@[simp] theorem State.resetRx_cmdReturn : (s.resetRx).cmdReturn = s.cmdReturn := rfl
@[simp] theorem State.resetRx_schedule : (s.resetRx).schedule = s.schedule := rfl
@[simp] theorem State.resetRx_resets : (s.resetRx).resets = s.resets := rfl

/-! ### State.loadMessage -/

@[simp] theorem State.loadMessage_params (m : List Byte) : (s.loadMessage m).params = s.params := rfl
@[simp] theorem State.loadMessage_crcReg (m : List Byte) : (s.loadMessage m).crcReg = s.crcReg := rfl
@[simp] theorem State.loadMessage_txState (m : List Byte) : (s.loadMessage m).txState = .sending := rfl
@[simp] theorem State.loadMessage_txbuf (m : List Byte) : (s.loadMessage m).txbuf = bufWrite s.txbuf 0 m := rfl
@[simp] theorem State.loadMessage_txLen (m : List Byte) : (s.loadMessage m).txLen = BitVec.ofNat 8 m.length := rfl
@[simp] theorem State.loadMessage_txPos (m : List Byte) : (s.loadMessage m).txPos = 0 := rfl
@[simp] theorem State.loadMessage_txStarted (m : List Byte) : (s.loadMessage m).txStarted = false := rfl
@[simp] theorem State.loadMessage_txCrc (m : List Byte) : (s.loadMessage m).txCrc = crc16 s.params.crc m := rfl
@[simp] theorem State.loadMessage_txErr (m : List Byte) : (s.loadMessage m).txErr = .none := rfl
@[simp] theorem State.loadMessage_txStatus (m : List Byte) : (s.loadMessage m).txStatus = s.txStatus := rfl
@[simp] theorem State.loadMessage_txStatusValid (m : List Byte) : (s.loadMessage m).txStatusValid = s.txStatusValid := rfl
@[simp] theorem State.loadMessage_rxState (m : List Byte) : (s.loadMessage m).rxState = s.rxState := rfl
@[simp] theorem State.loadMessage_rxbuf (m : List Byte) : (s.loadMessage m).rxbuf = s.rxbuf := rfl
@[simp] theorem State.loadMessage_rxTotal (m : List Byte) : (s.loadMessage m).rxTotal = s.rxTotal := rfl
@[simp] theorem State.loadMessage_rxCount (m : List Byte) : (s.loadMessage m).rxCount = s.rxCount := rfl
@[simp] theorem State.loadMessage_rxCrcExp (m : List Byte) : (s.loadMessage m).rxCrcExp = s.rxCrcExp := rfl
@[simp] theorem State.loadMessage_rxLast (m : List Byte) : (s.loadMessage m).rxLast = s.rxLast := rfl
@[simp] theorem State.loadMessage_rxBusyHit (m : List Byte) : (s.loadMessage m).rxBusyHit = s.rxBusyHit := rfl
@[simp] theorem State.loadMessage_respValid (m : List Byte) : (s.loadMessage m).respValid = s.respValid := rfl
@[simp] theorem State.loadMessage_resp (m : List Byte) : (s.loadMessage m).resp = s.resp := rfl
@[simp] theorem State.loadMessage_outq (m : List Byte) : (s.loadMessage m).outq = s.outq := rfl
@[simp] theorem State.loadMessage_inq (m : List Byte) : (s.loadMessage m).inq = s.inq := rfl
@[simp] theorem State.loadMessage_cmdq (m : List Byte) : (s.loadMessage m).cmdq = s.cmdq := rfl
@[simp] theorem State.loadMessage_cmdReturn (m : List Byte) : (s.loadMessage m).cmdReturn = s.cmdReturn := rfl
@[simp] theorem State.loadMessage_schedule (m : List Byte) : (s.loadMessage m).schedule = s.schedule := rfl
@[simp] theorem State.loadMessage_resets (m : List Byte) : (s.loadMessage m).resets = s.resets := rfl

end Sys2Proof.Machine
end

