-- ==== Sys2Proof/Laws/Ops.lean ====
section
/-! SUPPORT. One law per shared operation: everything it can do, said once. -/

namespace Sys2Proof.Machine

/-! ### Holds -/

theorem whenTxIdle_of_idle {s : State} (h : s.txState = .idle) (f : State → State) : whenTxIdle s f = .next (f s) := by
  simp [whenTxIdle, h]

theorem whenTxIdle_of_busy {s : State} (h : s.txState ≠ .idle) (f : State → State) : whenTxIdle s f = .next s := by
  simp [whenTxIdle, h]

theorem whenTxIdle_next {s t : State} {f : State → State} (h : whenTxIdle s f = .next t) :
    (s.txState = .idle ∧ t = f s) ∨ (s.txState ≠ .idle ∧ t = s) := by
  by_cases hi : s.txState = .idle
  · rw [whenTxIdle_of_idle hi] at h; cases h; exact .inl ⟨hi, rfl⟩
  · rw [whenTxIdle_of_busy hi] at h; cases h; exact .inr ⟨hi, rfl⟩

theorem whenTxAwait_of_await {s : State} (h : s.txState = .await) (f : State → State) : whenTxAwait s f = .next (f s) := by
  simp [whenTxAwait, h]

theorem whenTxAwait_next {s t : State} {f : State → State} (h : whenTxAwait s f = .next t) :
    (s.txState = .await ∧ t = f s) ∨ (s.txState ≠ .await ∧ t = s) := by
  by_cases hi : s.txState = .await
  · rw [whenTxAwait_of_await hi] at h; cases h; exact .inl ⟨hi, rfl⟩
  · simp only [whenTxAwait, hi, if_false] at h; cases h; exact .inr ⟨hi, rfl⟩

/-! ### The byte a read sees -/

theorem txByte_congr {s t : State} (hb : t.txbuf = s.txbuf) (hr : t.resets = s.resets) : txByte t = txByte s := by
  funext a; simp [txByte, hb, hr]

theorem rxByte_congr {s t : State} (hb : t.rxbuf = s.rxbuf) (hr : t.resets = s.resets) : rxByte t = rxByte s := by
  funext a; simp [rxByte, hb, hr]

theorem txMessage_congr {s t : State} (hb : t.txbuf = s.txbuf) (hr : t.resets = s.resets) (hl : t.txLen = s.txLen) :
    txMessage t = txMessage s := by
  simp [txMessage, txRead, txByte_congr hb hr, hl]

theorem rxMessage_congr {s t : State} (hb : t.rxbuf = s.rxbuf) (hr : t.resets = s.resets) (hl : t.rxTotal = s.rxTotal) :
    rxMessage t = rxMessage s := by
  simp [rxMessage, rxRead, rxByte_congr hb hr, hl]

@[simp] theorem txMessage_length (s : State) : (txMessage s).length = s.txLen.toNat := by simp [txMessage, txRead]

@[simp] theorem rxMessage_length (s : State) : (rxMessage s).length = s.rxTotal.toNat := by simp [rxMessage, rxRead]

theorem byte_le (b : Byte) : b.toNat ≤ msgMax := by have := b.isLt; simp only [msgMax]; omega

/-! ### append (R155) -/

theorem storeCount_le_length (s : State) (chunk : List Byte) : storeCount s chunk ≤ chunk.length := Nat.min_le_left _ _

@[simp] theorem min_storeCount (s : State) (chunk : List Byte) : min (storeCount s chunk) chunk.length = storeCount s chunk :=
  Nat.min_eq_left (storeCount_le_length s chunk)

theorem rxCount_add_storeCount_le {s : State} (chunk : List Byte) (h : s.rxCount ≤ s.rxTotal.toNat) :
    s.rxCount + storeCount s chunk ≤ s.rxTotal.toNat := by
  have := Nat.min_le_right chunk.length (s.rxTotal.toNat - s.rxCount)
  unfold storeCount; omega

theorem storeCount_eq_zero {s : State} (chunk : List Byte) (h : s.rxTotal.toNat ≤ s.rxCount) : storeCount s chunk = 0 := by
  have := Nat.min_le_right chunk.length (s.rxTotal.toNat - s.rxCount)
  unfold storeCount; omega

theorem appendChunk_rxByte_inside {s : State} {chunk : List Byte} {k : Nat} (hk : k < storeCount s chunk) :
    rxByte (s.appendChunk chunk) (s.rxCount + k) = chunk[k]'(Nat.lt_of_lt_of_le hk (storeCount_le_length s chunk)) := by
  have hk' : k < (chunk.take (storeCount s chunk)).length := by rwa [List.length_take, min_storeCount]
  simp only [rxByte, State.appendChunk_rxbuf, bufLookup_write_inside hk', Option.getD_some, List.getElem_take]

theorem appendChunk_rxByte_outside {s : State} {chunk : List Byte} {a : Nat}
    (ha : a < s.rxCount ∨ s.rxCount + storeCount s chunk ≤ a) : rxByte (s.appendChunk chunk) a = rxByte s a := by
  simp only [rxByte, State.appendChunk_rxbuf, State.appendChunk_resets]
  rw [bufLookup_write_outside (by simpa using ha)]

theorem appendChunk_rxbuf_wf {s : State} (chunk : List Byte) (h : s.rxbuf.wf = true) : (s.appendChunk chunk).rxbuf.wf = true := by
  rw [State.appendChunk_rxbuf]
  by_cases hc : s.rxCount ≤ s.rxTotal.toNat
  · refine bufWrite_wf _ ?_ h
    have := rxCount_add_storeCount_le chunk hc
    have := byte_le s.rxTotal
    simp; omega
  · rw [storeCount_eq_zero chunk (by omega)]
    simpa using h

theorem appendChunk_written {s : State} (chunk : List Byte) (h : bufWritten s.rxbuf s.rxCount = true) :
    bufWritten (s.appendChunk chunk).rxbuf (s.appendChunk chunk).rxCount = true := by
  have := bufWritten_write (chunk.take (storeCount s chunk)) h
  simpa using this

/-! ### classify and complete (R160, R192) -/

/-- The three outcomes of `classify` (R192). -/
theorem classify_cases (op : Byte) (len : Nat) (s : State) :
    (tableLength s.params.msgTable op = none ∧ classify op len s = s.rxRecord stWrongMessage) ∨
    (∃ n, tableLength s.params.msgTable op = some n ∧ len ≠ n ∧ classify op len s = s.rxRecord stMessageError) ∨
    (tableLength s.params.msgTable op = some len ∧ classify op len s = s.startExecuting) := by
  unfold classify
  cases h : tableLength s.params.msgTable op with
  | none => simp
  | some n =>
    by_cases hn : len = n
    · subst hn; simp
    · simp [hn]

/-- A message's meaning is its classification, whichever opcode it has. -/
theorem runMessage_messageOf (op : Byte) (payload : List Byte) (s : State) :
    runMessage (messageOf op payload) s = .next (classify op (payload.length + 1) s) := by
  unfold messageOf
  split_ifs with h0 h1 h2 h3
  · subst h0; rfl
  · subst h1; rfl
  · subst h2; rfl
  · subst h3; rfl
  · rfl

theorem exec_toInstr (m : Message) (s : State) : exec m.toInstr s = runMessage m s := by cases m <;> rfl

theorem rxMessage_cons {s : State} (h : s.rxTotal ≠ 0#8) :
    ∃ payload, rxMessage s = rxByte s 0 :: payload ∧ payload.length + 1 = s.rxTotal.toNat := by
  have hpos : s.rxTotal.toNat ≠ 0 := fun h0 => h (BitVec.eq_of_toNat_eq (by simpa using h0))
  obtain ⟨n, hn⟩ := Nat.exists_eq_succ_of_ne_zero hpos
  refine ⟨bufRead (rxByte s) 1 n, ?_, by simp [hn]⟩
  simp [rxMessage, rxRead, hn, bufRead]

/-- `complete` (R160): a CRC mismatch is recorded, otherwise the message is classified by `RXBUF[0]` and `RX_TOTAL`. -/
theorem complete_eq (s : State) :
    complete s = .next (if crc16 s.params.rxCrc (rxMessage s) ≠ s.rxCrcExp then s.rxRecord stCrcError
      else classify (rxByte s 0) s.rxTotal.toNat s) := by
  unfold complete
  by_cases hc : crc16 s.params.rxCrc (rxMessage s) = s.rxCrcExp
  · simp only [hc, ne_eq, not_true_eq_false, if_false]
    by_cases h0 : s.rxTotal = 0#8
    · have hm : rxMessage s = [] := List.length_eq_zero_iff.1 (by simp [h0])
      simp [hm, decodeMessage]
    · obtain ⟨payload, hm, hl⟩ := rxMessage_cons h0
      have hle : payload.length + 1 ≤ msgMax := hl ▸ byte_le s.rxTotal
      have hd : decodeMessage (rxMessage s) = .ok (messageOf (rxByte s 0) payload) := by
        rw [hm, decodeMessage, if_pos hle]
      rw [hd]
      simp only [runMessage_messageOf, hl]
  · simp [hc]

theorem completeIfWhole_eq (s : State) :
    completeIfWhole s = .next (if s.rxCount ≠ s.rxTotal.toNat then s
      else if crc16 s.params.rxCrc (rxMessage s) ≠ s.rxCrcExp then s.rxRecord stCrcError
      else classify (rxByte s 0) s.rxTotal.toNat s) := by
  unfold completeIfWhole
  by_cases h : s.rxCount = s.rxTotal.toNat
  · simp only [h, if_true, complete_eq, ne_eq, not_true_eq_false, if_false]
  · simp [h]

/-- The four outcomes of a Start or Cont packet once its chunk is stored (R153, R156, R160, R161, R192). -/
theorem completeIfWhole_cases {s t : State} (h : completeIfWhole s = .next t) :
    (s.rxCount ≠ s.rxTotal.toNat ∧ t = s) ∨
    (s.rxCount = s.rxTotal.toNat ∧ ∃ code, t = s.rxRecord code ∧ (code = stCrcError ∨ code = stWrongMessage ∨ code = stMessageError)) ∨
    (s.rxCount = s.rxTotal.toNat ∧ crc16 s.params.rxCrc (rxMessage s) = s.rxCrcExp ∧
      tableLength s.params.msgTable (rxByte s 0) = some s.rxTotal.toNat ∧ t = s.startExecuting) := by
  rw [completeIfWhole_eq] at h
  by_cases hc : s.rxCount = s.rxTotal.toNat
  · rw [if_neg (not_not.2 hc)] at h
    by_cases hx : crc16 s.params.rxCrc (rxMessage s) = s.rxCrcExp
    · rw [if_neg (not_not.2 hx)] at h
      rcases classify_cases (rxByte s 0) s.rxTotal.toNat s with ⟨-, e⟩ | ⟨n, -, -, e⟩ | ⟨ht, e⟩
      · rw [e] at h; cases h; exact .inr (.inl ⟨hc, _, rfl, .inr (.inl rfl)⟩)
      · rw [e] at h; cases h; exact .inr (.inl ⟨hc, _, rfl, .inr (.inr rfl)⟩)
      · rw [e] at h; cases h; exact .inr (.inr ⟨hc, hx, ht, rfl⟩)
    · rw [if_pos hx] at h; cases h
      exact .inr (.inl ⟨hc, _, rfl, .inl rfl⟩)
  · rw [if_pos hc] at h; cases h
    exact .inl ⟨hc, rfl⟩

/-! ### SEND (R123) -/

theorem loadMessage_txByte_inside {s : State} {m : List Byte} {k : Nat} (hk : k < m.length) : txByte (s.loadMessage m) k = m[k] := by
  have := bufLookup_write_inside (buf := s.txbuf) (i := 0) hk
  simp only [Nat.zero_add] at this
  simp [txByte, this]

theorem loadMessage_txByte_outside {s : State} {m : List Byte} {a : Nat} (ha : m.length ≤ a) :
    txByte (s.loadMessage m) a = txByte s a := by
  simp only [txByte, State.loadMessage_txbuf, State.loadMessage_resets]
  rw [bufLookup_write_outside (by omega)]

theorem loadMessage_txLen {s : State} {m : List Byte} (h : m.length ≤ msgMax) : (s.loadMessage m).txLen.toNat = m.length := by
  simp only [msgMax] at h
  simp only [State.loadMessage_txLen, BitVec.toNat_ofNat]
  omega

theorem loadMessage_txMessage {s : State} {m : List Byte} (h : m.length ≤ msgMax) : txMessage (s.loadMessage m) = m := by
  unfold txMessage txRead
  rw [loadMessage_txLen h]
  exact bufRead_eq_list m fun k hk => by rw [Nat.zero_add]; exact loadMessage_txByte_inside hk

/-! ### Emission (R126, R127) -/

@[simp] theorem startPacket_length (s : State) : (startPacket s).length = 4 + startCount s := by
  simp [startPacket, txRead]; omega

@[simp] theorem contPacket_length (s : State) : (contPacket s).length = 1 + contCount s := by
  simp [contPacket, txRead]; omega

/-- What an emission does: it appends one packet to `OUTQ`, moves `TX_POS`, sets `TX_STARTED` and may end the send. -/
theorem emitNext_cases (s : State) :
    (s.txStarted = false ∧ emitNext s = { s with
        outq := s.outq ++ [startPacket s], txPos := startCount s, txStarted := true,
        txState := if startCount s = s.txLen.toNat then .idle else s.txState }) ∨
    (s.txStarted = true ∧ emitNext s = { s with
        outq := s.outq ++ [contPacket s], txPos := s.txPos + contCount s,
        txState := if s.txPos + contCount s = s.txLen.toNat then .idle else s.txState }) := by
  unfold emitNext
  cases h : s.txStarted
  · exact .inl ⟨rfl, rfl⟩
  · refine .inr ⟨rfl, ?_⟩
    rw [if_pos rfl, ← h]
    rfl

end Sys2Proof.Machine
end

