-- ==== Sys2Proof/Laws/Frames.lean ====
section
/-! SUPPORT. The packets of one message (R128): how many there are and where each chunk lies, and what a completed message does. -/

namespace Sys2Proof.Machine

/-- Rounding a quotient up. -/
theorem ceil_spec (r q : Nat) (hq : 1 ≤ q) : r ≤ (r + (q - 1)) / q * q ∧ ∀ k, k < (r + (q - 1)) / q → k * q < r := by
  have h1 := Nat.div_add_mod (r + (q - 1)) q
  have h2 := Nat.mod_lt (r + (q - 1)) (show q > 0 by omega)
  rw [Nat.mul_comm] at h1
  refine ⟨by omega, ?_⟩
  intro k hk
  have : (k + 1) * q ≤ (r + (q - 1)) / q * q := Nat.mul_le_mul_right _ hk
  have : (k + 1) * q = k * q + q := by ring
  omega

/-- The Cont packets reach the end of the message, and each begins before it. -/
theorem contFrameCount_spec (p : Nat) (m : List Byte) (hp : 4 ≤ p) :
    m.length ≤ firstCount p m + contFrameCount p m * (p - 1) ∧
    ∀ k, k < contFrameCount p m → firstCount p m + k * (p - 1) < m.length := by
  have hf : firstCount p m ≤ m.length := Nat.min_le_left _ _
  have h := ceil_spec (m.length - firstCount p m) (p - 1) (by omega)
  rw [show p - 1 - 1 = p - 2 by omega] at h
  refine ⟨by unfold contFrameCount; omega, fun k hk => ?_⟩
  have := h.2 k hk
  omega

/-- Consecutive pieces of one size concatenate to a prefix. -/
theorem pieces_flatten (m : List Byte) (q n0 j : Nat) :
    ((List.range j).map fun k => (m.drop (n0 + k * q)).take q).flatten = (m.drop n0).take (j * q) := by
  induction j with
  | zero => simp
  | succ j ih =>
    rw [List.range_succ, List.map_append, List.flatten_append, ih]
    simp only [List.map_cons, List.map_nil, List.flatten_cons, List.flatten_nil, List.append_nil]
    rw [Nat.succ_mul, List.take_add, List.drop_drop]

/-- A stored message is classified by its own bytes where its CRC under the RX side's variant is the announced one, and is a CrcError
elsewhere (R160, R161, R252). -/
theorem completeIfWhole_of_message {s : State} {op : Byte} {payload : List Byte} (h1 : s.rxCount = s.rxTotal.toNat)
    (h2 : rxMessage s = op :: payload) :
    completeIfWhole s = .next (if crc16 s.params.rxCrc (op :: payload) ≠ s.rxCrcExp then s.rxRecord stCrcError
      else classify op (payload.length + 1) s) := by
  have hl : s.rxTotal.toNat = payload.length + 1 := by
    have := rxMessage_length s; rw [h2] at this; simpa using this.symm
  have h0 : s.rxTotal ≠ 0#8 := by rintro e; rw [e] at hl; simp at hl
  have hop : rxByte s 0 = op := by
    obtain ⟨p, e, _⟩ := rxMessage_cons h0; rw [h2] at e; injection e with e; exact e.symm
  rw [completeIfWhole_eq, if_neg (by simp [h1]), h2, hop, hl]

end Sys2Proof.Machine
end

