-- ==== Sys2Proof/Laws/PerInstr.lean ====
section
/-! SUPPORT. The statements made instruction by instruction. RoundTrip: decoding a well-formed instruction's bytes on its own port
gives it back. -/

namespace Sys2Proof.Laws.RoundTrip

/-- Decoding undoes encoding, for this instruction. -/
def Statement (i : Instr) : Prop := i.wf = true → decode i.port (encode i) = .ok i

theorem pktPing (ignored : List Byte) : Statement (.pktPing ignored) := fun _ => rfl

theorem pktStart (totalLen : Byte) (crc : Word) (chunk : List Byte) : Statement (.pktStart totalLen crc chunk) := fun _ => by
  show Except.ok (Instr.pktStart totalLen (fromLe16 (crc.extractLsb' 0 8) (crc.extractLsb' 8 8)) chunk) = _
  rw [fromLe16_le16]

theorem pktStartShort (rest : List Byte) : Statement (.pktStartShort rest) := fun h => by
  have hl : rest.length ≤ 2 := by simpa [Instr.wf] using h
  match rest, hl with
  | [], _ => rfl
  | [_], _ => rfl
  | [_, _], _ => rfl

theorem pktCont (chunk : List Byte) : Statement (.pktCont chunk) := fun _ => rfl

theorem pktReset (ignored : List Byte) : Statement (.pktReset ignored) := fun _ => rfl

theorem pktUnassigned (opcode : Byte) (payload : List Byte) : Statement (.pktUnassigned opcode payload) := fun h => by
  have hne : opcode ≠ 0x00#8 ∧ opcode ≠ 0x02#8 ∧ opcode ≠ 0x03#8 ∧ opcode ≠ 0x04#8 := by
    refine ⟨?_, ?_, ?_, ?_⟩ <;> (rintro rfl; simp [Instr.wf, unassignedPacketOpcode] at h)
  simp [decode, encode, Instr.port, decodePacket, hne]

theorem pktEmpty : Statement .pktEmpty := fun _ => rfl

theorem resp (byte0 status : Byte) (ignored : List Byte) : Statement (.resp byte0 status ignored) := fun _ => rfl

theorem respShort (bytes : List Byte) : Statement (.respShort bytes) := fun h => by
  have hl : bytes.length ≤ 1 := by simpa [Instr.wf] using h
  match bytes, hl with
  | [], _ => rfl
  | [_], _ => rfl

theorem message {op : Byte} {payload : List Byte} (h : messagePayloadFits payload = true) :
    decode .message (op :: payload) = .ok (messageOf op payload).toInstr := by
  have hl : payload.length + 1 ≤ msgMax := by simpa [messagePayloadFits] using h
  simp [decode, decodeMessage, hl, Except.map]

theorem msgDfu (payload : List Byte) : Statement (.msgDfu payload) := fun h => message h

theorem msgWritePage (payload : List Byte) : Statement (.msgWritePage payload) := fun h => message h

theorem msgActivateLayout (payload : List Byte) : Statement (.msgActivateLayout payload) := fun h => message h

theorem msgDeactivateLayout (payload : List Byte) : Statement (.msgDeactivateLayout payload) := fun h => message h

theorem msgUnknown (opcode : Byte) (payload : List Byte) : Statement (.msgUnknown opcode payload) := fun h => by
  have h' : unknownMessageOpcode opcode = true ∧ messagePayloadFits payload = true := by simpa [Instr.wf] using h
  have hne : opcode ≠ 0x00#8 ∧ opcode ≠ 0x01#8 ∧ opcode ≠ 0x02#8 ∧ opcode ≠ 0x03#8 := by
    refine ⟨?_, ?_, ?_, ?_⟩ <;> (rintro rfl; exact absurd h'.1 (by decide))
  show decode .message (opcode :: payload) = _
  rw [message h'.2]
  simp [messageOf, hne, Message.toInstr]

theorem cmdPing : Statement .cmdPing := fun _ => rfl

theorem cmdSend (m : List Byte) : Statement (.cmdSend m) := fun _ => rfl

theorem cmdReset : Statement .cmdReset := fun _ => rfl

theorem cmdCrcClear : Statement .cmdCrcClear := fun _ => rfl

theorem cmdCrcFeed (b : Byte) : Statement (.cmdCrcFeed b) := fun _ => rfl

theorem cmdCrcRead : Statement .cmdCrcRead := fun _ => rfl

end Sys2Proof.Laws.RoundTrip
end

