-- ==== Sys2Proof/Laws/Step.lean ====
section
/-! SUPPORT. What one step can do, said once. -/

namespace Sys2Proof.Machine

/-- The step is the next turn, with the schedule moved on; with no turn the state persists (R229). -/
theorem step_eq (s : State) :
    step s = match nextTurn s with
      | some t => takeTurn t { s with schedule := s.schedule.tail }
      | none => .next s := by
  unfold step takeStep nextTurn
  cases h : s.schedule with
  | nil =>
    have hs : ({ s with schedule := [] } : State) = s := by rw [← h]
    rw [List.tail_nil, hs]
    all_goals rcases eagerTurn s with _ | t <;> rfl
  | cons t rest => simp

/-- With a turn scheduled, the step is that turn. -/
theorem step_cons {s : State} {u : Turn} {sched : List Turn} (h : s.schedule = u :: sched) :
    step s = takeTurn u { s with schedule := sched } := by
  simp [step, takeStep, h]

theorem set_schedule_nil {s : State} (h : s.schedule = []) : ({ s with schedule := [] } : State) = s := by rw [← h]

/-- One step of a run that goes on. -/
theorem run_succ {s t : State} (n : Nat) (h : step s = .next t) : core.run (n + 1) s = core.run n t := by
  have h' : core.step s = .next t := h
  simp only [Host.Core.run, h']

/-- A run that goes on began with a step that did. -/
theorem run_succ_next {s t : State} {n : Nat} (h : core.run (n + 1) s = .next t) :
    ∃ u : State, step s = .next u ∧ core.run n u = .next t := by
  have hs : core.step s = step s := rfl
  simp only [Host.Core.run, hs] at h
  cases hu : step s with
  | next u => rw [hu] at h; exact ⟨u, rfl, h⟩
  | fault r => rw [hu] at h; cases h
  | refused r => rw [hu] at h; cases h

/-- Runs compose. -/
theorem run_add {s t : State} {m : Nat} (n : Nat) (h : core.run m s = .next t) : core.run (m + n) s = core.run n t := by
  induction m generalizing s with
  | zero => cases h; simp
  | succ m ih =>
    obtain ⟨u, hu, hr⟩ := run_succ_next h
    rw [show m + 1 + n = (m + n) + 1 by omega, run_succ _ hu]
    exact ih hr

/-- What the host's turn can answer. -/
theorem hostTurn_next {s t : State} (h : hostTurn s = .next t) :
    t = s ∨ ∃ tr rest i, s.txState = .idle ∧ s.cmdq = tr :: rest ∧ decode .command tr = .ok i ∧
      exec i { s with cmdq := rest } = .next t := by
  unfold hostTurn at h
  split_ifs at h with hi
  · cases hq : s.cmdq with
    | nil => rw [hq] at h; cases h; exact .inl rfl
    | cons tr rest =>
      rw [hq] at h
      simp only [runDecoded] at h
      cases hd : decode .command tr with
      | ok i => rw [hd] at h; exact .inr ⟨tr, rest, i, hi, rfl, hd, h⟩
      | error e => rw [hd] at h; cases h
  · cases h; exact .inl rfl

/-- What the TX engine's turn can answer. -/
theorem txTurn_next {s t : State} (h : txTurn s = .next t) :
    t = s ∨ (s.txState = .sending ∧ t = emitNext s) ∨
    ∃ r rest, s.txState = .await ∧ s.inq = r :: rest ∧ exec (decodeResponse r) { s with inq := rest } = .next t := by
  unfold txTurn at h
  cases hs : s.txState with
  | idle => rw [hs] at h; cases h; exact .inl rfl
  | sending => rw [hs] at h; cases h; exact .inr (.inl ⟨rfl, rfl⟩)
  | await =>
    rw [hs] at h
    cases hq : s.inq with
    | nil => rw [hq] at h; cases h; exact .inl rfl
    | cons r rest => rw [hq] at h; exact .inr (.inr ⟨r, rest, rfl, rfl, h⟩)

/-- What the RX engine's turn can answer. -/
theorem rxTurn_next {s t : State} (h : rxTurn s = .next t) :
    t = s ∨ ∃ pkt rest, s.outq = pkt :: rest ∧ exec (decodePacket pkt) { s with outq := rest } = .next t := by
  unfold rxTurn at h
  cases hq : s.outq with
  | nil => rw [hq] at h; cases h; exact .inl rfl
  | cons pkt rest => rw [hq] at h; exact .inr ⟨pkt, rest, rfl, h⟩

theorem isPing_cons {op : Byte} {rest : List Byte} (h : op = 0x00#8) : isPing (op :: rest) = true := by subst h; rfl

theorem isPing_cons_ne {op : Byte} {rest : List Byte} (h : ¬ op = 0x00#8) : isPing (op :: rest) = false := by
  simpa [isPing] using h

/-- What a packet on `OUTQ` can do to the RX engine (R165): one line for each kind of row. -/
theorem packet_cases {pkt : Packet} {s t : State} (h : exec (decodePacket pkt) s = .next t) :
    (t = s ∧ isPing pkt = false) ∨ (t = s.answerPing ∧ isPing pkt = true) ∨
    (isPing pkt = false ∧
      ((s.rxState = .executing ∧ t = s.noteBusy) ∨
       (s.rxState ≠ .executing ∧ t = s.resetRx) ∨
       (s.rxState ≠ .executing ∧ t = s.rxRecord stMessageError) ∨
       (s.rxState = .idle ∧ t = s.rxRecord stUnexpectedCont) ∨
       (s.rxState = .receiving ∧ ∃ chunk, completeIfWhole (s.appendChunk chunk) = .next t) ∨
       (s.rxState ≠ .executing ∧ ∃ totalLen crc chunk, totalLen ≠ 0#8 ∧
          completeIfWhole (acceptStart totalLen crc chunk s) = .next t))) := by
  cases pkt with
  | nil => simp only [decodePacket, exec, execPktEmpty] at h; cases h; exact .inl ⟨rfl, rfl⟩
  | cons op rest =>
    simp only [decodePacket] at h
    split_ifs at h with h0 h2 h3 h4
    · cases h; exact .inr (.inl ⟨rfl, isPing_cons h0⟩)
    · right; right
      refine ⟨isPing_cons_ne h0, ?_⟩
      unfold decodeStart at h
      split at h
      · simp only [exec, execPktStart] at h
        split_ifs at h with he hz
        · cases h; exact .inl ⟨he, rfl⟩
        · cases h; exact .inr (.inr (.inl ⟨he, rfl⟩))
        · exact .inr (.inr (.inr (.inr (.inr ⟨he, _, _, _, hz, h⟩))))
      · simp only [exec, execPktStartShort] at h
        split_ifs at h with he
        · cases h; exact .inl ⟨he, rfl⟩
        · cases h; exact .inr (.inr (.inl ⟨he, rfl⟩))
    · right; right
      refine ⟨isPing_cons_ne h0, ?_⟩
      simp only [exec, execPktCont] at h
      cases hs : s.rxState with
      | idle => rw [hs] at h; cases h; simp
      | receiving => rw [hs] at h; simp only [ne_eq, reduceCtorEq, false_and, false_or, true_and, not_false_eq_true]; exact .inr (.inr (.inl ⟨_, h⟩))
      | executing => rw [hs] at h; cases h; simp
    · simp only [exec, execPktReset] at h
      split_ifs at h with he
      · cases h; exact .inl ⟨rfl, isPing_cons_ne h0⟩
      · cases h; exact .inr (.inr ⟨isPing_cons_ne h0, .inr (.inl ⟨he, rfl⟩)⟩)
    · simp only [exec, execPktUnassigned] at h
      split_ifs at h with he
      · cases h; exact .inr (.inr ⟨isPing_cons_ne h0, .inl ⟨he, rfl⟩⟩)
      · cases h; exact .inr (.inr ⟨isPing_cons_ne h0, .inr (.inr (.inl ⟨he, rfl⟩))⟩)

/-- What a response can do to the TX engine (R130). -/
theorem response_cases {r : Packet} {s t : State} (h : exec (decodeResponse r) s = .next t) (ha : s.txState = .await) :
    (∃ status, t = { s with txErr := .none, txStatus := status, txStatusValid := true, txState := .idle }) ∨
    t = { s with txErr := .shortResponse, txState := .idle } := by
  unfold decodeResponse at h
  split at h
  · simp only [exec, execResp, whenTxAwait_of_await ha] at h; cases h; exact .inl ⟨_, rfl⟩
  · simp only [exec, execRespShort, whenTxAwait_of_await ha] at h; cases h; exact .inr rfl

/-- The instruction a command transaction decodes to is one of the six commands (R82). -/
theorem decodeCommand_ok {tr : Transaction} {i : Instr} (h : decode .command tr = .ok i) :
    i = .cmdPing ∨ (∃ m, i = .cmdSend m) ∨ i = .cmdReset ∨ i = .cmdCrcClear ∨ (∃ b, i = .cmdCrcFeed b) ∨ i = .cmdCrcRead := by
  cases tr with
  | nil => simp [decode, decodeCommand] at h
  | cons code ops =>
    simp only [decode, decodeCommand] at h
    split_ifs at h
    · cases ops <;> simp [decodeNoOperands] at h; simp [← h]
    · cases h; simp
    · cases ops <;> simp [decodeNoOperands] at h; simp [← h]
    · cases ops <;> simp [decodeNoOperands] at h; simp [← h]
    · unfold decodeFeed at h
      split at h
      · cases h; simp
      · cases h
    · cases ops <;> simp [decodeNoOperands] at h; simp [← h]

/-- What an accepted command can do (R102 to R104, R123, R129, R131). -/
theorem command_cases {tr : Transaction} {i : Instr} {s t : State} (hd : decode .command tr = .ok i) (hi : s.txState = .idle)
    (h : exec i s = .next t) :
    t = { s.emitOut [0x00#8] with txState := .await } ∨
    (∃ m, 1 ≤ m.length ∧ m.length ≤ msgMax ∧ 4 ≤ s.params.p ∧ t = s.loadMessage m) ∨
    (∃ e, t = s.txRecord e) ∨ t = s.emitOut [0x04#8] ∨ (∃ w, t = { s with crcReg := w }) ∨
    (∃ w, t = { s with cmdReturn := some w }) := by
  rcases decodeCommand_ok hd with rfl | ⟨m, rfl⟩ | rfl | rfl | ⟨b, rfl⟩ | rfl
  · simp only [exec, execCmdPing, whenTxIdle_of_idle hi] at h; cases h; exact .inl rfl
  · simp only [exec, execCmdSend, whenTxIdle_of_idle hi] at h
    split_ifs at h with h0 h1
    · cases h; exact .inr (.inr (.inl ⟨_, rfl⟩))
    · cases h; exact .inr (.inr (.inl ⟨_, rfl⟩))
    · cases h
      refine .inr (.inl ⟨m, ?_, ?_, ?_, rfl⟩) <;> omega
  · simp only [exec, execCmdReset, whenTxIdle_of_idle hi] at h; cases h; exact .inr (.inr (.inr (.inl rfl)))
  · simp only [exec, execCmdCrcClear, whenTxIdle_of_idle hi] at h; cases h; exact .inr (.inr (.inr (.inr (.inl ⟨_, rfl⟩))))
  · simp only [exec, execCmdCrcFeed, whenTxIdle_of_idle hi] at h; cases h; exact .inr (.inr (.inr (.inr (.inl ⟨_, rfl⟩))))
  · simp only [exec, execCmdCrcRead, whenTxIdle_of_idle hi] at h; cases h; exact .inr (.inr (.inr (.inr (.inr ⟨_, rfl⟩))))

end Sys2Proof.Machine
end

