-- ==== Sys2Proof/Laws/Turns.lean ====
section
/-! SUPPORT. What each turn leaves alone, said once for each. -/

namespace Sys2Proof.Machine

/-- A step that goes on either had no turn to take, or took one with the schedule moved on. -/
theorem step_next {s t : State} (h : step s = .next t) :
    (nextTurn s = none ∧ t = s) ∨ ∃ u, nextTurn s = some u ∧ takeTurn u { s with schedule := s.schedule.tail } = .next t := by
  rw [step_eq] at h
  cases hn : nextTurn s with
  | none => rw [hn] at h; cases h; exact .inl ⟨rfl, rfl⟩
  | some u => rw [hn] at h; exact .inr ⟨u, rfl, h⟩

/-- The host's turn writes the TX path's registers, `CRC_REG` and `OUTQ` only, and nothing outside `TX_IDLE`. -/
theorem hostTurn_frame {s t : State} (h : hostTurn s = .next t) :
    t = { s with crcReg := t.crcReg, txState := t.txState, txbuf := t.txbuf, txLen := t.txLen, txPos := t.txPos,
                 txStarted := t.txStarted, txCrc := t.txCrc, txErr := t.txErr, outq := t.outq, cmdq := t.cmdq,
                 cmdReturn := t.cmdReturn } ∧
    (s.txState ≠ .idle → t = s) := by
  rcases hostTurn_next h with rfl | ⟨tr, rest, i, hi, hq, hd, he⟩
  · exact ⟨rfl, fun _ => rfl⟩
  · refine ⟨?_, fun hn => absurd hi hn⟩
    rcases command_cases (s := { s with cmdq := rest }) hd hi he with rfl | ⟨m, -, -, -, rfl⟩ | ⟨e, rfl⟩ | rfl | ⟨w, rfl⟩ | ⟨w, rfl⟩ <;> rfl

/-- The TX engine's turn leaves the message it sends, `CRC_REG` and the RX side alone. -/
theorem txTurn_frame {s t : State} (h : txTurn s = .next t) :
    t = { s with txState := t.txState, txPos := t.txPos, txStarted := t.txStarted, txErr := t.txErr, outq := t.outq, inq := t.inq,
                 txStatus := t.txStatus, txStatusValid := t.txStatusValid } := by
  rcases txTurn_next h with rfl | ⟨hs, rfl⟩ | ⟨r, rest, ha, hq, he⟩
  · rfl
  · rcases emitNext_cases s with ⟨_, e⟩ | ⟨_, e⟩ <;> rw [e]
  · rcases response_cases (s := { s with inq := rest }) he ha with ⟨st, rfl⟩ | rfl <;> rfl

/-- A packet leaves the TX side and the queues alone, touches no message on offer, and records only the codes of R39. -/
theorem packet_frame {pkt : Packet} {s t : State} (h : exec (decodePacket pkt) s = .next t) :
    t = { s with rxState := t.rxState, rxbuf := t.rxbuf, rxTotal := t.rxTotal, rxCount := t.rxCount, rxCrcExp := t.rxCrcExp,
                 rxLast := t.rxLast, rxBusyHit := t.rxBusyHit, resp := t.resp, respValid := t.respValid } ∧
    (s.rxState = .executing → t.rxbuf = s.rxbuf ∧ t.rxTotal = s.rxTotal ∧ t.rxState = .executing) ∧
    (t.rxLast = s.rxLast ∨ t.rxLast ∈ [0x00#8, 0x01#8, 0x02#8, 0x06#8, 0x07#8, 0x08#8]) ∧
    (t.respValid = s.respValid ∨ isPing pkt = true) := by
  rcases packet_cases h with ⟨rfl, -⟩ | ⟨rfl, hp⟩ | ⟨hp, hc⟩
  · exact ⟨rfl, fun h => ⟨rfl, rfl, h⟩, .inl rfl, .inl rfl⟩
  · exact ⟨rfl, fun h => ⟨rfl, rfl, h⟩, .inl rfl, .inr hp⟩
  · rcases hc with ⟨hx, rfl⟩ | ⟨hx, rfl⟩ | ⟨hx, rfl⟩ | ⟨hx, rfl⟩ | ⟨hx, ch, hc⟩ | ⟨hx, n, crc, ch, hn, hc⟩
    · exact ⟨rfl, fun h => ⟨rfl, rfl, h⟩, .inl rfl, .inl rfl⟩
    · exact ⟨rfl, fun h => absurd h hx, .inr (by simp [State.resetRx, stIdle]), .inl rfl⟩
    · exact ⟨rfl, fun h => absurd h hx, .inr (by simp [stMessageError]), .inl rfl⟩
    · exact ⟨rfl, fun h => by simp [hx] at h, .inr (by simp [stUnexpectedCont]), .inl rfl⟩
    · rcases completeIfWhole_cases hc with ⟨_, rfl⟩ | ⟨_, c, rfl, hcc⟩ | ⟨_, _, _, rfl⟩
      · exact ⟨rfl, fun h => by simp [hx] at h, .inl rfl, .inl rfl⟩
      · exact ⟨rfl, fun h => by simp [hx] at h,
          .inr (by rcases hcc with rfl | rfl | rfl <;> simp [stCrcError, stWrongMessage, stMessageError]), .inl rfl⟩
      · exact ⟨rfl, fun h => by simp [hx] at h, .inl rfl, .inl rfl⟩
    · rcases completeIfWhole_cases hc with ⟨_, rfl⟩ | ⟨_, c, rfl, hcc⟩ | ⟨_, _, _, rfl⟩
      · exact ⟨rfl, fun h => absurd h hx, .inl rfl, .inl rfl⟩
      · exact ⟨rfl, fun h => absurd h hx,
          .inr (by rcases hcc with rfl | rfl | rfl <;> simp [stCrcError, stWrongMessage, stMessageError]), .inl rfl⟩
      · exact ⟨rfl, fun h => absurd h hx, .inl rfl, .inl rfl⟩

/-- The RX engine's turn: the packet's frame, and the head of `OUTQ` gone. -/
theorem rxTurn_frame {s t : State} (h : rxTurn s = .next t) :
    t = { s with rxState := t.rxState, rxbuf := t.rxbuf, rxTotal := t.rxTotal, rxCount := t.rxCount, rxCrcExp := t.rxCrcExp,
                 rxLast := t.rxLast, rxBusyHit := t.rxBusyHit, resp := t.resp, respValid := t.respValid, outq := s.outq.tail } ∧
    (s.rxState = .executing → t.rxbuf = s.rxbuf ∧ t.rxTotal = s.rxTotal ∧ t.rxState = .executing) ∧
    (t.rxLast = s.rxLast ∨ t.rxLast ∈ [0x00#8, 0x01#8, 0x02#8, 0x06#8, 0x07#8, 0x08#8]) := by
  unfold rxTurn at h
  cases hq : s.outq with
  | nil =>
    rw [hq] at h; cases h
    refine ⟨?_, fun h => ⟨rfl, rfl, h⟩, .inl rfl⟩
    rw [List.tail_nil, ← hq]
  | cons pkt rest =>
    rw [hq] at h
    obtain ⟨h1, h2, h3, -⟩ := packet_frame h
    exact ⟨by rw [h1]; rfl, h2, h3⟩

/-- The link writes `INQ` and `RESP_VALID` only. -/
theorem linkStep_frame (s : State) : linkStep s = { s with inq := (linkStep s).inq, respValid := (linkStep s).respValid } := by
  unfold linkStep; split_ifs <;> rfl

/-- The executor writes `RX_STATE`, `RX_LAST` and `RX_BUSY_HIT` only. -/
theorem executorStep_frame (r : Byte) (s : State) :
    executorStep r s = { s with rxState := (executorStep r s).rxState, rxLast := (executorStep r s).rxLast,
                                rxBusyHit := (executorStep r s).rxBusyHit } := by
  unfold executorStep; split_ifs <;> rfl

theorem injectOut_next {s t : State} {pkt : Packet} (h : injectOut pkt s = .next t) :
    t = s.emitOut pkt ∧ pkt.length ≤ s.params.pMax := by
  unfold injectOut at h; split_ifs at h with hp; cases h; exact ⟨rfl, hp⟩

theorem injectIn_next {s t : State} {pkt : Packet} (h : injectIn pkt s = .next t) :
    t = s.emitIn pkt ∧ pkt.length ≤ s.params.pMax := by
  unfold injectIn at h; split_ifs at h with hp; cases h; exact ⟨rfl, hp⟩

theorem pingsIn_snoc (q : List Packet) (pkt : Packet) : pingsIn (q ++ [pkt]) = pingsIn q + if isPing pkt then 1 else 0 := by
  simp [pingsIn, List.countP_append, List.countP_cons]

end Sys2Proof.Machine
end

