-- ==== Sys2Proof/Tests/Slice0.lean ====
section
/-! SUPPORT. Tests on small states, each about one step; the expected results are the spec's own (95_test_vectors.md, 30_encoding.md).
Then the witnesses: for each statement with hypotheses, concrete states and operands that meet them. -/

namespace Sys2Proof.Tests

open Sys2Proof.Machine

/-! ### WellFormed refuses an ill-formed term, check by check -/

theorem test_wf_startShort_of_four : (Instr.pktStartShort [0x01#8, 0x40#8, 0x01#8]).wf = false := by decide
theorem test_wf_startShort_of_three : (Instr.pktStartShort [0x01#8, 0x40#8]).wf = true := by decide
theorem test_wf_unassigned_ping : (Instr.pktUnassigned 0x00#8 []).wf = false := by decide
theorem test_wf_unassigned_start : (Instr.pktUnassigned 0x02#8 []).wf = false := by decide
theorem test_wf_unassigned_reset : (Instr.pktUnassigned 0x04#8 []).wf = false := by decide
theorem test_wf_unassigned_edges : (Instr.pktUnassigned 0x01#8 []).wf = true ∧ (Instr.pktUnassigned 0x05#8 []).wf = true := by decide
theorem test_wf_respShort_of_two : (Instr.respShort [0x00#8, 0x04#8]).wf = false := by decide
theorem test_wf_message_too_long :
    (Instr.msgDfu (List.replicate 255 0x00#8)).wf = false ∧ (Instr.msgWritePage (List.replicate 255 0x00#8)).wf = false ∧
    (Instr.msgActivateLayout (List.replicate 255 0x00#8)).wf = false ∧
    (Instr.msgDeactivateLayout (List.replicate 255 0x00#8)).wf = false ∧
    (Instr.msgUnknown 0x04#8 (List.replicate 255 0x00#8)).wf = false := by decide +kernel
theorem test_wf_message_longest : (Instr.msgDfu (List.replicate 254 0x00#8)).wf = true := by decide +kernel
theorem test_wf_unknown_listed : (Instr.msgUnknown 0x03#8 []).wf = false := by decide

/-! ### Decoding: bytes written out from the spec's encodings -/

/-- R72, R84. -/
theorem test_decode_ping : decode .outLink [0b00000000#8] = .ok (.pktPing []) := by decide
/-- R84: bytes after a Ping's opcode are ignored. -/
theorem test_decode_ping_tail : decode .outLink [0x00#8, 0x09#8, 0x09#8] = .ok (.pktPing [0x09#8, 0x09#8]) := by decide
/-- R73, R83, V24: totalLen 1, crc 0x0140 low byte first, one chunk byte. -/
theorem test_decode_start : decode .outLink [0b00000010#8, 0b00000001#8, 0b01000000#8, 0b00000001#8, 0b00000011#8] =
    .ok (.pktStart 1#8 0x0140#16 [0x03#8]) := by decide
/-- R84: exactly four bytes is a Start with an empty chunk. -/
theorem test_decode_start_empty : decode .outLink [0x02#8, 0x01#8, 0x00#8, 0x00#8] = .ok (.pktStart 1#8 0#16 []) := by decide
/-- R84, V27. -/
theorem test_decode_start_short : decode .outLink [0b00000010#8, 0b00000101#8] = .ok (.pktStartShort [0x05#8]) := by decide
/-- R74. -/
theorem test_decode_cont : decode .outLink [0b00000011#8, 0b10101010#8] = .ok (.pktCont [0xAA#8]) := by decide
/-- R75. -/
theorem test_decode_reset : decode .outLink [0b00000100#8] = .ok (.pktReset []) := by decide
/-- R77, V39, V40: the two edges of the unassigned range, and its last opcode. -/
theorem test_decode_unassigned :
    decode .outLink [0b00000001#8, 0x00#8] = .ok (.pktUnassigned 0x01#8 [0x00#8]) ∧
    decode .outLink [0b00000101#8] = .ok (.pktUnassigned 0x05#8 []) ∧
    decode .outLink [0b11111111#8] = .ok (.pktUnassigned 0xFF#8 []) := by decide
/-- R84, R150. -/
theorem test_decode_empty : decode .outLink [] = .ok .pktEmpty := by decide
/-- R76, V23b. -/
theorem test_decode_resp : decode .inLink [0b00000000#8, 0b00000100#8, 0xFF#8] = .ok (.resp 0x00#8 0x04#8 [0xFF#8]) := by decide
/-- R130, V23c. -/
theorem test_decode_resp_short : decode .inLink [0x00#8] = .ok (.respShort [0x00#8]) ∧ decode .inLink [] = .ok (.respShort []) := by
  decide
/-- R79. -/
theorem test_decode_dfu : decode .message [0b00000000#8] = .ok (.msgDfu []) := by decide
/-- R79, R80: page index 2. -/
theorem test_decode_writePage : decode .message [0b00000001#8, 0x02#8, 0xEE#8] = .ok (.msgWritePage [0x02#8, 0xEE#8]) := by decide
/-- R79. -/
theorem test_decode_activate : decode .message [0b00000010#8] = .ok (.msgActivateLayout []) := by decide
/-- R79. -/
theorem test_decode_deactivate : decode .message [0b00000011#8] = .ok (.msgDeactivateLayout []) := by decide
/-- R79: the first opcode of no message. -/
theorem test_decode_unknown : decode .message [0b00000100#8] = .ok (.msgUnknown 0x04#8 []) := by decide
/-- R78: a message has 1 to 255 bytes. -/
theorem test_decode_message_bounds : decode .message [] = .error .emptyMessage ∧
    decode .message (List.replicate 256 0x00#8) = .error (.messageTooLong 256) := by decide +kernel
/-- R82. -/
theorem test_decode_cmdPing : decode .command [0b00000000#8] = .ok .cmdPing := by decide
/-- R82, P4: `02 {L=1, M=03}`. -/
theorem test_decode_cmdSend : decode .command [0b00000010#8, 0x03#8] = .ok (.cmdSend [0x03#8]) := by decide
/-- R82. -/
theorem test_decode_cmdReset : decode .command [0b00000100#8] = .ok .cmdReset := by decide
/-- R82. -/
theorem test_decode_cmdCrcClear : decode .command [0b00010000#8] = .ok .cmdCrcClear := by decide
/-- R82, P4: `11 {b=31}`. -/
theorem test_decode_cmdCrcFeed : decode .command [0b00010001#8, 0b00110001#8] = .ok (.cmdCrcFeed 0x31#8) := by decide
/-- R82. -/
theorem test_decode_cmdCrcRead : decode .command [0b00010010#8] = .ok .cmdCrcRead := by decide
/-- V5f: code 0x13 is no command. -/
theorem test_decode_cmd_unknown : decode .command [0x13#8] = .error (.unknownCommand 0x13#8) := by decide

/-- A table word that names one command: the step from reset runs it (log 12). -/
theorem test_tableWord_command : decodeTableWord 8 0x10 = some .cmdCrcClear ∧
    step (State.reset.withFetchWord 8 0x10) = exec .cmdCrcClear { State.reset with cmdq := [], schedule := [] } := ⟨by decide, rfl⟩
/-- A table word that is no command code is a packet on `OUTQ` (log 12). -/
theorem test_tableWord_packet : decodeTableWord 8 0x03 = some (.pktCont []) ∧
    step (State.reset.withFetchWord 8 0x03) = exec (.pktCont []) { State.reset with outq := [], schedule := [] } := ⟨by decide, rfl⟩
/-- The row with no bits. -/
theorem test_tableWord_empty : decodeTableWord 0 0 = some .pktEmpty ∧
    step (State.reset.withFetchWord 0 0) = .next State.reset := ⟨by decide, rfl⟩

/-! ### Small states -/

/-- Reset, with turns to come. -/
def turns (ts : List Turn) : State := { State.reset with schedule := ts }

/-- Reset, with a command at the port and the host's turn next. -/
def cmd (tr : Transaction) : State := { turns [.host] with cmdq := [tr] }

/-- Reset, with packets on `OUTQ` and the RX engine's turn next. -/
def pkt (ps : List Packet) : State := { turns [.rx] with outq := ps }

/-- The RX engine executes DeactivateLayout (V24). -/
def executing : State :=
  { State.reset with rxState := .executing, rxbuf := [(0, 0x03#8)], rxTotal := 1#8, rxCount := 1, rxCrcExp := 0x0140#16 }

/-- The RX engine has one byte of a two-byte message. -/
def receiving : State :=
  { State.reset with rxState := .receiving, rxbuf := [(0, 0x02#8)], rxTotal := 2#8, rxCount := 1, rxCrcExp := 0x6001#16 }

/-- The TX engine with V18's message loaded, `P` = 4, nothing emitted. -/
def sending : State :=
  { State.reset with params := { Params.default with p := 4 }, txState := .sending,
                     txbuf := [(0, 0x00#8), (1, 0x01#8), (2, 0x02#8)], txLen := 3#8, txCrc := 0x5180#16 }

/-- The TX engine waits for a response. -/
def awaiting : State := { State.reset with txState := .await }

/-- One step's next state, seen through a function. -/
def after {α : Type} (s : State) (f : State → α) : Option α :=
  match step s with
  | .next t => some (f t)
  | .fault _ => none
  | .refused _ => none

/-! ### Commands (V5, V22, V23) -/

theorem test_crcClear : after { cmd [0x10#8] with crcReg := 0x0280#16 } (·.crcReg) = some 0x0000#16 := by decide
/-- V3, V5c. -/
theorem test_crcFeed : after (cmd [0x11#8, 0x03#8]) (·.crcReg) = some 0x0280#16 := by decide +kernel
/-- V3: the register after 31, then 32. -/
theorem test_crcFeed_second : after { cmd [0x11#8, 0x32#8] with crcReg := 0x832B#16 } (·.crcReg) = some 0x29A2#16 := by decide +kernel
/-- V3, V5c: the read value, and the register unchanged. -/
theorem test_crcRead : after { cmd [0x12#8] with crcReg := 0x832B#16 } (fun t => (t.cmdReturn, t.crcReg)) =
    some (some 0xD4C1#16, 0x832B#16) := by decide +kernel
/-- V22a. -/
theorem test_send_empty : after (cmd [0x02#8]) (fun t => (t.txErr, t.txState, t.outq)) = some (.empty, .idle, []) := by decide
/-- V22c. -/
theorem test_send_overflow : after { cmd [0x02#8, 0x03#8] with params := { Params.default with p := 3 } }
    (fun t => (t.txErr, t.txState, t.txLen)) = some (.overflow, .idle, 0#8) := by decide
/-- V19: what SEND loads, and that it clears an earlier error (V22e). -/
theorem test_send : after { cmd [0x02#8, 0x03#8] with txErr := .empty } (fun t => (t.txState, t.txLen, t.txCrc, bufLookup t.txbuf 0, t.txErr)) =
    some (.sending, 1#8, 0x0140#16, some 0x03#8, .none) := by decide +kernel
/-- V23a. -/
theorem test_ping : after (cmd [0x00#8]) (fun t => (t.outq, t.txState)) = some ([[0x00#8]], .await) := by decide
/-- V23e. -/
theorem test_reset : after (cmd [0x04#8]) (fun t => (t.outq, t.txState)) = some ([[0x04#8]], .idle) := by decide
/-- V5e. -/
theorem test_held : after { sending with schedule := [.host], cmdq := [[0x02#8, 0x03#8]] } (·.cmdq) = some [[0x02#8, 0x03#8]] := by decide
/-- V5f. -/
theorem test_refused : step (cmd [0x13#8]) = .refused (.unknownCommand 0x13#8) := rfl

/-! ### TX engine (V11, V18, V23) -/

/-- V18: the smallest legal `P`; the Start carries no message byte. -/
theorem test_emitStart : after { sending with schedule := [.tx] } (fun t => (t.outq, t.txPos, t.txState)) =
    some ([[0x02#8, 0x03#8, 0x80#8, 0x51#8]], 0, .sending) := by decide +kernel
/-- V18: the Cont. -/
theorem test_emitCont : after { sending with schedule := [.tx], txStarted := true } (fun t => (t.outq, t.txPos, t.txState)) =
    some ([[0x03#8, 0x00#8, 0x01#8, 0x02#8]], 3, .idle) := by decide +kernel
/-- V23b. -/
theorem test_response : after { awaiting with schedule := [.tx], inq := [[0x00#8, 0x04#8, 0xFF#8]] }
    (fun t => (t.txStatus, t.txStatusValid, t.txState)) = some (0x04#8, true, .idle) := by decide
/-- V23c. -/
theorem test_response_short : after { awaiting with schedule := [.tx], inq := [[0x00#8]] }
    (fun t => (t.txErr, t.txStatusValid, t.txState)) = some (.shortResponse, false, .idle) := by decide

/-! ### RX engine (V24 to V49) -/

/-- What V24's column lists. -/
def rxView (s : State) : RxState × Byte × Byte × Nat × Word × Bool :=
  (s.rxState, s.rxLast, s.rxTotal, s.rxCount, s.rxCrcExp, s.rxBusyHit)

/-- V24. -/
theorem test_start_executes : after (pkt [[0x02#8, 0x01#8, 0x40#8, 0x01#8, 0x03#8]]) rxView =
    some (.executing, 0#8, 1#8, 1, 0x0140#16, false) := by decide +kernel
/-- V29. -/
theorem test_start_crc : after (pkt [[0x02#8, 0x01#8, 0x41#8, 0x01#8, 0x03#8]]) rxView =
    some (.idle, 2#8, 1#8, 1, 0x0141#16, false) := by decide +kernel
/-- CRC-16/MODBUS (95_test_vectors.md V1). -/
def modbus : CrcVariant := ⟨0x8005#16, 0xFFFF#16, true, true, 0x0000#16⟩

/-- The parameters with the two sides' variants apart: the RX side's is the given one. -/
def rxVariant (v : CrcVariant) : Params := { Params.default with rxCrc := v }

/-- R252's example: the RX side takes the stamp of its own variant, MODBUS, and not the TX side's, ARC. -/
theorem test_start_crc_mismatch :
    after { pkt [[0x02#8, 0x01#8, 0x40#8, 0x01#8, 0x03#8]] with params := rxVariant modbus } rxView = some (.idle, 2#8, 1#8, 1, 0x0140#16, false) ∧
    after { pkt [[0x02#8, 0x01#8, 0xFF#8, 0x41#8, 0x03#8]] with params := rxVariant modbus } rxView =
      some (.executing, 0#8, 1#8, 1, 0x41FF#16, false) := ⟨by decide +kernel, by decide +kernel⟩
/-- R252's example: SEND stamps the TX side's variant, and CRC_READ of a fed register is the TX side's too (R227, log 9). -/
theorem test_send_crc_mismatch :
    after { cmd [0x02#8, 0x03#8] with params := rxVariant modbus } (·.txCrc) = some 0x0140#16 ∧
    after { cmd [0x12#8] with params := rxVariant modbus, crcReg := 0x0280#16 } (·.cmdReturn) = some (some 0x0140#16) := by decide +kernel
/-- V30. -/
theorem test_message_unknown : after (pkt [[0x02#8, 0x01#8, 0x01#8, 0xC3#8, 0x04#8]]) (·.rxLast) = some 0x08#8 := by decide +kernel
/-- V32, its second half: ActivateLayout with a stray payload byte. -/
theorem test_cont_completes : after { receiving with schedule := [.rx], outq := [[0x03#8, 0x00#8]] } rxView =
    some (.idle, 6#8, 2#8, 2, 0x6001#16, false) := by decide +kernel
/-- V42: padding is ignored. -/
theorem test_start_padded : after (pkt [[0x02#8, 0x01#8, 0x40#8, 0x01#8, 0x03#8, 0x00#8, 0x00#8, 0x00#8]]) (fun t => (t.rxState, t.rxCount, t.rxbuf.length)) =
    some (.executing, 1, 1) := by decide +kernel
/-- V27. -/
theorem test_start_short : after (pkt [[0x02#8, 0x05#8]]) (fun t => (t.rxState, t.rxLast)) = some (.idle, 0x06#8) := by decide
/-- V43. -/
theorem test_start_zero : after (pkt [[0x02#8, 0x00#8, 0x00#8, 0x00#8]]) rxView = some (.idle, 6#8, 0#8, 0, 0#16, false) := by decide
/-- V28. -/
theorem test_cont_idle : after (pkt [[0x03#8, 0xAA#8]]) (·.rxLast) = some 0x01#8 := by decide
/-- V25. -/
theorem test_ping_executing : after { executing with schedule := [.rx], outq := [[0x00#8]] } (fun t => (t.resp, t.respValid)) =
    some ((0x00#8, 0x04#8), true) := by decide
/-- V35, V48. -/
theorem test_busy : after { executing with schedule := [.rx], outq := [[0x03#8, 0x11#8]] } (fun t => (t.rxBusyHit, t.rxState)) =
    some (true, .executing) := by decide
/-- V38. -/
theorem test_reset_executing : after { executing with schedule := [.rx], outq := [[0x04#8]] } rxView =
    some (.executing, 0#8, 1#8, 1, 0x0140#16, false) := by decide
/-- V37. -/
theorem test_reset_receiving : after { receiving with schedule := [.rx], outq := [[0x04#8]] } rxView =
    some (.idle, 0#8, 0#8, 0, 0#16, false) := by decide
/-- V40. -/
theorem test_unassigned : after { receiving with schedule := [.rx], outq := [[0x05#8]] } (fun t => (t.rxState, t.rxLast, t.rxCount)) =
    some (.idle, 0x06#8, 1) := by decide
/-- V41. -/
theorem test_empty : after (pkt [[]]) rxView = some (.idle, 0#8, 0#8, 0, 0#16, false) ∧ after (pkt [[]]) (·.outq) = some [] := ⟨by decide, by decide⟩
/-- V26, V35, V36. -/
theorem test_executor : after { executing with schedule := [.executor 0#8] } (fun t => (t.rxState, t.rxLast)) = some (.idle, 0#8) ∧
    after { executing with schedule := [.executor 0#8], rxBusyHit := true } (·.rxLast) = some 7#8 ∧
    after { executing with schedule := [.executor 5#8], rxBusyHit := true } (·.rxLast) = some 5#8 := by decide
/-- R57. -/
theorem test_link : after { turns [.link] with respValid := true, resp := (0x00#8, 0x04#8) } (fun t => (t.inq, t.respValid)) =
    some ([[0x00#8, 0x04#8]], false) := by decide
/-- R198: a WritePage of 130 bytes, and (V33) one byte short. -/
theorem test_writePage : (execMsgWritePage (List.replicate 129 0x00#8) receiving = .next { receiving with rxState := .executing }) ∧
    (execMsgWritePage (List.replicate 128 0x00#8) receiving = .next { receiving with rxState := .idle, rxLast := 6#8 }) := by
  constructor <;> simp only [execMsgWritePage, List.length_replicate] <;> rfl
/-- R192: an opcode of another `MSG_TABLE`'s own (R13). -/
theorem test_unknown_listed :
    exec (.msgUnknown 0x09#8 []) { receiving with params := { Params.default with msgTable := [(0x09#8, 1)] } } =
      .next { receiving with params := { Params.default with msgTable := [(0x09#8, 1)] }, rxState := .executing } := rfl

/-! ### CRC (V1, V2, V4) -/

/-- V1's check values for MODBUS, XMODEM, IBM-3740 and KERMIT. -/
theorem test_crc_variants :
    crc16 ⟨0x8005#16, 0xFFFF#16, true, true, 0#16⟩ [0x31#8, 0x32#8, 0x33#8, 0x34#8, 0x35#8, 0x36#8, 0x37#8, 0x38#8, 0x39#8] = 0x4B37#16 ∧
    crc16 ⟨0x1021#16, 0x0000#16, false, false, 0#16⟩ [0x31#8, 0x32#8, 0x33#8, 0x34#8, 0x35#8, 0x36#8, 0x37#8, 0x38#8, 0x39#8] = 0x31C3#16 ∧
    crc16 ⟨0x1021#16, 0xFFFF#16, false, false, 0#16⟩ [0x31#8, 0x32#8, 0x33#8, 0x34#8, 0x35#8, 0x36#8, 0x37#8, 0x38#8, 0x39#8] = 0x29B1#16 ∧
    crc16 ⟨0x1021#16, 0x0000#16, true, true, 0#16⟩ [0x31#8, 0x32#8, 0x33#8, 0x34#8, 0x35#8, 0x36#8, 0x37#8, 0x38#8, 0x39#8] = 0x2189#16 := by
  decide +kernel
/-- V4: no residue for a variant that is not reflected. V4's value BAF2 is that of ARC's two bytes 3D BB appended (log 19). -/
theorem test_crc_no_residue : crc16 ⟨0x1021#16, 0x0000#16, false, false, 0#16⟩
    [0x31#8, 0x32#8, 0x33#8, 0x34#8, 0x35#8, 0x36#8, 0x37#8, 0x38#8, 0x39#8, 0x3D#8, 0xBB#8] = 0xBAF2#16 := by decide +kernel
set_option maxRecDepth 1000000 in
/-- V2: WritePage of page 0, all zero. -/
theorem test_crc_page : crc16 CrcVariant.arc (0x01#8 :: 0x00#8 :: List.replicate 128 0x00#8) = 0xF901#16 := by decide +kernel

/-! ### Witnesses: states and operands that meet the hypotheses of the statements, clause by clause -/

/-- V22b: one byte more than a message holds. -/
def longMessage : List Byte := List.replicate 256 0x00#8

/-- The longest message. -/
def fullMessage : List Byte := List.replicate 255 0x00#8

theorem witness_DecodeOfEncodeGivesInstr : (Instr.pktStart 0xFF#8 0xFFFF#16 [0xFF#8]).wf = true ∧
    (Instr.pktStartShort [0x01#8, 0x40#8]).wf = true ∧ (Instr.pktUnassigned 0xFF#8 [0x00#8]).wf = true ∧
    (Instr.respShort [0x00#8]).wf = true ∧ (Instr.msgUnknown 0xFF#8 (List.replicate 254 0x00#8)).wf = true := by decide +kernel

theorem witness_EncodeOfDecodeGivesBytes : decode .outLink [0x02#8, 0x05#8] = .ok (.pktStartShort [0x05#8]) ∧
    decode .inLink [0x00#8] = .ok (.respShort [0x00#8]) ∧ decode .message [0x04#8] = .ok (.msgUnknown 0x04#8 []) ∧
    decode .command [0x11#8, 0x31#8] = .ok (.cmdCrcFeed 0x31#8) := by decide

theorem witness_PacketClassesOfR84 : [0xFF#8, 0xFF#8].length < 3 ∧ (0x01#8 = 0x01#8 ∨ 0x05 ≤ (0x01#8).toNat) ∧
    ((0x05#8 : Byte) = 0x01#8 ∨ 0x05 ≤ (0x05#8).toNat) ∧ ((0xFF#8 : Byte) = 0x01#8 ∨ 0x05 ≤ (0xFF#8).toNat) := by decide

theorem witness_StepRunsDecodedInstr_host : (cmd [0x10#8]).schedule = .host :: [] ∧ (cmd [0x10#8]).txState = .idle ∧
    (cmd [0x10#8]).cmdq = [0x10#8] :: [] ∧ decode .command [0x10#8] = .ok .cmdCrcClear := by decide
theorem witness_StepRunsDecodedInstr_rx : (pkt [[]]).schedule = .rx :: [] ∧ (pkt [[]]).outq = [] :: [] ∧
    decode .outLink [] = .ok .pktEmpty := by decide
theorem witness_StepRunsDecodedInstr_tx :
    let s : State := { awaiting with schedule := [.tx], inq := [[0x00#8]] }
    s.schedule = .tx :: [] ∧ s.txState = .await ∧ s.inq = [0x00#8] :: [] ∧ decode .inLink [0x00#8] = .ok (.respShort [0x00#8]) := by
  decide

theorem witness_EmptyScheduleIsEager_tx : sending.schedule = [] ∧ sending.txState = .sending := by decide
theorem witness_EmptyScheduleIsEager_response :
    ({ awaiting with inq := [[]] } : State).txState = .await ∧ ({ awaiting with inq := [[]] } : State).inq ≠ [] := by decide
theorem witness_EmptyScheduleIsEager_link :
    awaiting.txState = .await ∧ awaiting.inq = [] ∧ ({ awaiting with respValid := true } : State).respValid = true := by decide
theorem witness_EmptyScheduleIsEager_rx :
    let s : State := { State.reset with outq := [[]] }
    s.txState = .idle ∧ s.respValid = false ∧ s.outq ≠ [] := by decide
theorem witness_EmptyScheduleIsEager_host :
    let s : State := { State.reset with cmdq := [[]] }
    s.txState = .idle ∧ s.respValid = false ∧ s.outq = [] ∧ s.cmdq ≠ [] := by decide
theorem witness_EmptyScheduleIsEager_idle : State.reset.respValid = false ∧ State.reset.outq = [] ∧ State.reset.txState = .idle ∧
    State.reset.cmdq = [] ∧ awaiting.respValid = false ∧ awaiting.outq = [] ∧ awaiting.txState = .await ∧ awaiting.inq = [] := by decide

theorem witness_UnknownCommandRefused : (cmd [0x13#8, 0x00#8]).schedule = .host :: [] ∧ (cmd [0x13#8, 0x00#8]).txState = .idle ∧
    (cmd [0x13#8, 0x00#8]).cmdq = (0x13#8 :: [0x00#8]) :: [] ∧ 0x13#8 ∉ [0x00#8, 0x02#8, 0x04#8, 0x10#8, 0x11#8, 0x12#8] ∧
    0x01#8 ∉ [0x00#8, 0x02#8, 0x04#8, 0x10#8, 0x11#8, 0x12#8] := by decide
theorem witness_MalformedCommandRefused : (cmd []).schedule = .host :: [] ∧ (cmd []).txState = .idle ∧ (cmd []).cmdq = [] :: [] ∧
    (cmd [0x12#8, 0x00#8]).cmdq = (0x12#8 :: 0x00#8 :: []) :: [] ∧ (cmd [0x11#8]).cmdq = [0x11#8] :: [] ∧
    (cmd [0x11#8, 0x00#8, 0x00#8]).cmdq = (0x11#8 :: 0x00#8 :: 0x00#8 :: []) :: [] := by decide

theorem witness_CommandHeldUntilTxIdle_host : ({ sending with schedule := [.host] } : State).schedule = .host :: [] ∧
    sending.txState ≠ .idle := by decide
theorem witness_CommandHeldUntilTxIdle_other : awaiting.txState ≠ .idle ∧ step awaiting = .next awaiting ∧
    nextTurn awaiting ≠ some .tx ∧ nextTurn awaiting ≠ some .hardwareReset := ⟨by decide, rfl, by decide, by decide⟩
theorem witness_CommandHeldUntilTxIdle_sending : sending.txState = .sending ∧ step sending = .next (emitStart sending) ∧
    nextTurn sending = some .tx := ⟨by decide, rfl, by decide⟩

theorem witness_BlockNeverStops : step (cmd [0x13#8]) = .refused (.unknownCommand 0x13#8) ∧
    step (turns [.injectOut (List.replicate 65 0x00#8)]) = .refused (.packetTooLong 65) ∧
    step (turns [.injectIn (List.replicate 65 0x00#8)]) = .refused (.packetTooLong 65) := ⟨rfl, rfl, rfl⟩

theorem witness_commands : State.reset.txState = .idle ∧ State.reset.crcReg = State.reset.params.crc.init ∧ sending.txState ≠ .idle ∧
    awaiting.txState ≠ .idle ∧ awaiting.txState = .await ∧ Instr.cmdCrcRead.port = .command ∧ (Instr.cmdSend []).port = .command := by decide

theorem witness_CrcStreamingAgrees :
    let s : State := { State.reset with cmdq := [[0x10#8], [0x11#8, 0x31#8], [0x12#8]], schedule := [.host, .host, .host] }
    s.txState = .idle ∧ s.cmdq = [0x10#8] :: ([0x31#8].map fun b => [0x11#8, b]) ++ [0x12#8] :: [] ∧
    s.schedule = List.replicate ([0x31#8].length + 2) .host ++ [] := by decide

theorem witness_ResidueIsZero : CrcVariant.arc.refin = true ∧ CrcVariant.arc.refout = true ∧ CrcVariant.arc.xorout = 0x0000#16 := by decide
theorem witness_OneByteChangeIsDetected : CrcVariant.arc.poly.getLsbD 0 = true ∧ (0xFF#8 : Byte) ≠ 0x7F#8 := by decide
/-- A polynomial with bit 0 clear, and one with its highest bit alone; the first and the last bit of a byte. -/
theorem witness_OneByteChangeIsDetected_flip : (0x0002#16 : Word) ≠ 0x0000#16 ∧ (0x8000#16 : Word) ≠ 0x0000#16 ∧ 0 < 8 ∧ 7 < 8 := by decide

theorem witness_SendLoadsMessage : State.reset.txState = .idle ∧ ([] : List Byte).length = 0 ∧
    1 ≤ longMessage.length ∧ 255 < longMessage.length ∧ ({ Params.default with p := 3 } : Params).p < 4 ∧
    1 ≤ [0x03#8].length ∧ 1 ≤ fullMessage.length ∧ fullMessage.length ≤ 255 ∧ 4 ≤ sending.params.p ∧ sending.params.p = 4 := by
  decide +kernel

theorem witness_PingCommandEmits_waits : ({ awaiting with schedule := [.tx] } : State).schedule = .tx :: [] ∧ awaiting.txState = .await ∧
    awaiting.inq = [] := by decide

theorem witness_EmitStartStep : ({ sending with schedule := [.tx] } : State).schedule = .tx :: [] ∧ sending.txState = .sending ∧
    sending.txStarted = false := by decide

/-- `sending` after its Start. -/
def started : State := { sending with txStarted := true, schedule := [.tx] }

theorem witness_inv_started : Inv started where
  params_wf := by decide
  txbuf_wf := by decide
  rxbuf_wf := by decide
  tx :=
    { pos_le := by decide
      sending_size := fun _ => by decide
      sending_pos := fun _ => by decide
      sending_start := fun _ h => by cases h
      sending_written := fun _ => by decide
      sending_crc := fun _ => by decide +kernel }
  rx :=
    { count_le := by decide
      receiving_count := fun h => by cases h
      receiving_written := fun h => by cases h
      executing_count := fun h => by cases h
      executing_written := fun h => by cases h
      executing_crc := fun h => by cases h
      executing_table := fun h => by cases h }
  outq_fits := by decide

theorem witness_EmitContStep : started.schedule = .tx :: [] ∧ started.txState = .sending ∧ started.txStarted = true := by decide

theorem witness_ResponseStep : ({ awaiting with inq := [[0x00#8, 0x04#8]], schedule := [.tx] } : State).schedule = .tx :: [] ∧
    awaiting.txState = .await ∧ ({ awaiting with inq := [[0x00#8, 0x04#8]] } : State).inq = (0x00#8 :: 0x04#8 :: []) :: [] ∧
    ({ awaiting with inq := [[0x00#8]] } : State).inq = [0x00#8] :: [] ∧ [0x00#8].length < 2 := by decide

/-- V19: one message byte at the smallest legal `P`. -/
def sendOne : State :=
  { State.reset with params := { Params.default with p := 4 }, cmdq := [[0x02#8, 0x00#8]], schedule := [.host, .tx, .tx] }

theorem witness_SendEmitsFrames : sendOne.txState = .idle ∧ 1 ≤ [0x00#8].length ∧ [0x00#8].length ≤ 255 ∧ 4 ≤ sendOne.params.p ∧
    sendOne.cmdq = (0x02#8 :: [0x00#8]) :: [] ∧
    sendOne.schedule = .host :: List.replicate (1 + contFrameCount sendOne.params.p [0x00#8]) .tx ++ [] := by decide

theorem witness_FramesCutTheMessage : 1 ≤ fullMessage.length ∧ fullMessage.length ≤ 255 ∧ 4 ≤ Params.default.p ∧
    0 + 1 < contFrameCount 64 fullMessage ∧ 3 < contFrameCount 64 fullMessage := by decide +kernel

theorem witness_StartAccepted : receiving.rxState ≠ .executing ∧ (0xFF#8 : Byte) ≠ 0x00#8 ∧
    (List.replicate 254 0x00#8).length < (0xFF#8).toNat ∧ ([] : List Byte).length < (0x01#8).toNat := by decide +kernel
theorem witness_ContReceived : receiving.rxState = .receiving ∧ receiving.rxCount + ([] : List Byte).length < receiving.rxTotal.toNat := by
  decide

/-- The last byte decides whether the CRC matches. -/
theorem witness_ContReceived_completing : receiving.rxState = .receiving ∧ receiving.rxCount < receiving.rxTotal.toNat ∧
    receiving.rxTotal.toNat ≤ receiving.rxCount + [0x00#8].length ∧
    crc16 receiving.params.rxCrc (rxMessage (receiving.appendChunk [0x00#8])) = receiving.rxCrcExp ∧
    crc16 receiving.params.rxCrc (rxMessage (receiving.appendChunk [0x01#8])) ≠ receiving.rxCrcExp := by decide +kernel
theorem witness_StartAccepted_completing : State.reset.rxState ≠ .executing ∧ (0x01#8 : Byte) ≠ 0x00#8 ∧ (0x01#8).toNat ≤ [0x03#8].length ∧
    crc16 State.reset.params.rxCrc (rxMessage (acceptStart 0x01#8 0x0140#16 [0x03#8] State.reset)) = 0x0140#16 ∧
    crc16 State.reset.params.rxCrc (rxMessage (acceptStart 0x01#8 0x0140#16 [0x03#8] State.reset)) ≠ 0x0141#16 := by decide +kernel

theorem witness_MessageIsClassified : tableLength State.reset.params.msgTable 0x04#8 = none ∧
    tableLength State.reset.params.msgTable 0x02#8 = some 1 ∧ [0x00#8].length + 1 ≠ 1 ∧
    tableLength State.reset.params.msgTable 0x01#8 = some ((List.replicate 129 0x00#8).length + 1) := by decide +kernel
theorem witness_DefaultMessages : State.reset.params.msgTable = defaultMsgTable ∧ Instr.msgDfu [] ∈ [Instr.msgDfu [], .msgActivateLayout [],
    .msgDeactivateLayout []] ∧ [0x00#8] ≠ [] ∧ 0x04 ≤ (0x04#8).toNat := by decide

theorem witness_rxStates : State.reset.rxState ≠ .executing ∧ receiving.rxState ≠ .executing ∧ State.reset.rxState = .idle ∧
    executing.rxState = .executing := by decide
theorem witness_PacketsDuringExecutionAreBusy_completion :
    let s : State := { executing with schedule := [.executor 0x00#8], rxBusyHit := true }
    s.schedule = .executor 0x00#8 :: [] ∧ s.rxState = .executing ∧ s.rxBusyHit = true := by decide

theorem witness_RxStepIsTotal : (pkt [[0x05#8]]).schedule = .rx :: [] ∧ (pkt [[0x05#8]]).outq = [0x05#8] :: [] ∧ (pkt [[]]).outq = [] :: [] ∧
    (pkt []).schedule = .rx :: [] ∧ (pkt []).outq = [] := by decide

/-- V19's two packets waiting. -/
def reassembly : State :=
  { State.reset with params := { Params.default with p := 4 }, schedule := [.rx, .rx],
                     outq := [[0x02#8, 0x01#8, 0x00#8, 0x00#8], [0x03#8, 0x00#8]] }

theorem witness_ReassemblyRebuildsMessage : reassembly.rxState ≠ .executing ∧ ([] : List Byte).length + 1 ≤ 255 ∧ 4 ≤ reassembly.params.p ∧
    reassembly.outq = frames reassembly.params (0x00#8 :: []) ++ [] ∧
    reassembly.schedule = List.replicate (1 + contFrameCount reassembly.params.p (0x00#8 :: [])) .rx ++ [] ∧
    crc16 reassembly.params.rxCrc (0x00#8 :: []) = crc16 reassembly.params.crc (0x00#8 :: []) ∧
    tableLength reassembly.params.msgTable 0x00#8 = some (([] : List Byte).length + 1) := by decide +kernel

theorem witness_ReassemblyRebuildsMessage_rejected :
    let s : State := { reassembly with outq := frames reassembly.params [0x04#8] }
    let s' : State := { reassembly with outq := frames reassembly.params [0x01#8] }
    s.rxState ≠ .executing ∧ s.outq = frames s.params [0x04#8] ++ [] ∧ tableLength s.params.msgTable 0x04#8 = none ∧
    s.schedule = List.replicate (1 + contFrameCount s.params.p [0x04#8]) .rx ++ [] ∧
    s'.rxState ≠ .executing ∧ s'.outq = frames s'.params [0x01#8] ++ [] ∧ tableLength s'.params.msgTable 0x01#8 = some 130 ∧
    ([] : List Byte).length + 1 ≠ 130 ∧ s'.schedule = List.replicate (1 + contFrameCount s'.params.p [0x01#8]) .rx ++ [] := by
  decide +kernel

/-- The variants apart, on V19's message: ARC stamps 0000 and MODBUS finds 40BF. -/
theorem witness_ReassemblyRebuildsMessage_mismatch :
    let s : State := { reassembly with params := { rxVariant modbus with p := 4 } }
    s.rxState ≠ .executing ∧ 4 ≤ s.params.p ∧ s.outq = frames s.params (0x00#8 :: []) ++ [] ∧
    s.schedule = List.replicate (1 + contFrameCount s.params.p (0x00#8 :: [])) .rx ++ [] ∧
    crc16 s.params.rxCrc (0x00#8 :: []) ≠ crc16 s.params.crc (0x00#8 :: []) := by decide +kernel

/-- The host sends a one-byte message in one packet, and the RX engine takes it; the RX side has the given variant. -/
def sendAcross (v : CrcVariant) (op : Byte) : State :=
  { State.reset with params := rxVariant v, cmdq := [[0x02#8, op]], schedule := [.host, .tx, .rx] }

/-- R252: a variant other than ARC that happens to give `[0x03]` ARC's value, `0x0140`. -/
def sameOnThree : CrcVariant := { modbus with xorout := 0x40BF#16 }

theorem witness_SentMessagePassesOnlyWhereVariantsAgree :
    (∀ v ∈ [CrcVariant.arc, modbus, sameOnThree], ∀ op ∈ [0x03#8, 0x04#8], let s := sendAcross v op
      s.txState = .idle ∧ s.rxState ≠ .executing ∧ s.outq = [] ∧ ([] : List Byte).length + 1 ≤ 255 ∧ 4 ≤ s.params.p ∧
      s.cmdq = (0x02#8 :: op :: []) :: [] ∧
      s.schedule = .host :: List.replicate (1 + contFrameCount s.params.p (op :: [])) .tx ++
        (List.replicate (1 + contFrameCount s.params.p (op :: [])) .rx ++ [])) ∧
    crc16 modbus [0x03#8] ≠ crc16 CrcVariant.arc [0x03#8] ∧
    sameOnThree ≠ CrcVariant.arc ∧ crc16 sameOnThree [0x03#8] = crc16 CrcVariant.arc [0x03#8] ∧
    tableLength (rxVariant sameOnThree).msgTable 0x03#8 = some (([] : List Byte).length + 1) ∧
    tableLength (rxVariant CrcVariant.arc).msgTable 0x04#8 ≠ some (([] : List Byte).length + 1) ∧
    (sendAcross modbus 0x03#8).params.rxCrc = ⟨0x8005#16, 0xFFFF#16, true, true, 0x0000#16⟩ ∧
    (sendAcross CrcVariant.arc 0x03#8).params.rxCrc = CrcVariant.arc ∧
    (sendAcross CrcVariant.arc 0x03#8).params.msgTable = defaultMsgTable := by decide +kernel

theorem witness_LinkStepMovesResponse :
    let s : State := { turns [.link] with respValid := true }
    s.schedule = .link :: [] ∧ s.respValid = true ∧ (turns [.link]).respValid = false ∧ exec (.pktPing []) s = .next s.answerPing :=
  ⟨by decide, by decide, by decide, rfl⟩
theorem witness_ExecutorCompletes : ({ executing with schedule := [.executor 0xFF#8] } : State).schedule = .executor 0xFF#8 :: [] ∧
    executing.rxState = .executing ∧ (turns [.executor 0x00#8]).schedule = .executor 0x00#8 :: [] ∧
    (turns [.executor 0x00#8]).rxState ≠ .executing := by decide
theorem witness_InjectionBoundedByPMax : (turns [.injectOut [0x00#8]]).schedule = .injectOut [0x00#8] :: [] ∧
    (List.replicate 64 0x00#8).length ≤ State.reset.params.pMax ∧ State.reset.params.pMax < (List.replicate 65 0x00#8).length := by decide
theorem witness_HardwareResetRestores : (turns [.hardwareReset]).schedule = .hardwareReset :: [] := by decide
theorem witness_QuiescentHasNoStep : Quiescent State.reset ∧ Quiescent (turns [.executor 0x00#8]) ∧ State.reset.schedule = [] ∧
    State.reset.cmdq = [] := ⟨⟨rfl, by decide, rfl, rfl, rfl⟩, ⟨rfl, by decide, rfl, rfl, rfl⟩, rfl, rfl⟩

theorem witness_PacketFrame : (Instr.pktCont [0xFF#8]).port = .outLink ∧ exec (.pktCont []) receiving = .next receiving ∧
    receiving.rxState = .receiving ∧ (0 < receiving.rxCount ∨ receiving.rxCount + storeCount receiving [] ≤ 0) ∧
    (Instr.pktStart 0x01#8 0x0000#16 []).port = .outLink ∧
    exec (.pktStart 0x01#8 0x0000#16 []) State.reset = .next (acceptStart 0x01#8 0x0000#16 [] State.reset) ∧
    storeCount (State.reset.beginMessage 0x01#8 0x0000#16) [] ≤ 0 ∧ exec .pktEmpty receiving = .next receiving :=
  ⟨by decide, rfl, by decide, by decide, by decide, rfl, by decide, rfl⟩
theorem witness_CommandFrame : exec (.cmdSend [0x03#8]) State.reset = .next (State.reset.loadMessage [0x03#8]) ∧
    [0x03#8].length ≤ 1 ∧ exec .cmdPing sending = .next sending := ⟨rfl, by decide, rfl⟩
theorem witness_ResponseAndMessageFrame : (Instr.respShort []).port = .inLink ∧ exec (.respShort []) State.reset = .next State.reset ∧
    (Instr.msgDfu []).port = .message ∧ exec (.msgDfu []) receiving = .next receiving.startExecuting :=
  ⟨by decide, rfl, by decide, rfl⟩

theorem witness_ResetMeetsInvariants : ({ Params.default with p := 1, pMax := 1 } : Params).wf = true ∧ Params.default.wf = true := by decide
theorem witness_StepKeepsInv : Inv started ∧ step started = .next (emitCont { started with schedule := [] }) := ⟨witness_inv_started, rfl⟩
theorem witness_StepKeepsPingsAccounted : PingsAccounted State.reset ∧ nextTurn (turns [.injectOut [0x04#8]]) = some (.injectOut [0x04#8]) ∧
    (Turn.injectOut [0x04#8]).injectsPing = false ∧
    step (turns [.injectOut [0x04#8]]) = .next { State.reset with outq := [[0x04#8]] } ∧
    PingsAccounted { awaiting with inq := [[0x00#8, 0x00#8]] } := ⟨rfl, by decide, by decide, rfl, rfl⟩
theorem witness_ParametersNeverChange : step (turns [.hardwareReset]) = .next { State.reset with resets := 1 } := rfl
theorem witness_OfferIsStable :
    let s : State := { executing with schedule := [.rx], outq := [[0x03#8, 0x11#8]] }
    s.rxState = .executing ∧ step s = .next { executing with rxBusyHit := true } ∧ nextTurn s ≠ some .hardwareReset :=
  ⟨by decide, rfl, by decide⟩
theorem witness_OnlyOwnersWrite :
    let s : State := { executing with schedule := [.executor 0x00#8] }
    step s = .next { executing with rxState := .idle, rxLast := 0x00#8 } ∧ nextTurn s ≠ some .hardwareReset ∧ nextTurn s ≠ some .host ∧
    nextTurn s ≠ some .tx ∧ nextTurn s ≠ some .rx ∧ nextTurn s ≠ some .link ∧
    (∀ r, nextTurn (turns [.link]) ≠ some (.executor r)) := ⟨rfl, by decide, by decide, by decide, by decide, by decide, by intro r h; cases h⟩
theorem witness_RxLastCodes : step { executing with schedule := [.executor 0x05#8] } =
    .next { executing with rxState := .idle, rxLast := 0x05#8 } ∧ State.reset.rxState = .idle := ⟨rfl, rfl⟩
theorem witness_TxSideIgnoresRxState :
    let s : State := { State.reset with schedule := [.host], cmdq := [[0x00#8]] }
    let s' : State := { executing with schedule := [.host], cmdq := [[0x00#8]] }
    s' = { s with rxState := s'.rxState, rxbuf := s'.rxbuf, rxTotal := s'.rxTotal, rxCount := s'.rxCount, rxCrcExp := s'.rxCrcExp,
                  rxLast := s'.rxLast, rxBusyHit := s'.rxBusyHit, resp := s'.resp, respValid := s'.respValid } ∧
    s.schedule = .host :: [] := ⟨rfl, rfl⟩

end Sys2Proof.Tests
end

section
/-! Proofs for 00_scope.md: which turn a step takes, and what a turn that fetches an item runs. -/

namespace Sys2Proof.Machine

/-! ### What a fetching turn runs -/

theorem runDecoded_of_ok {d : Except DecodeError Instr} {i : Instr} (h : d = .ok i) (s : State) :
    runDecoded d s = exec i s := by
  subst h; rfl

/-- In `TX_IDLE` the host's turn runs its next command (R120). -/
theorem hostTurn_idle_cons {s : State} {tr : Transaction} {rest : List Transaction}
    (hi : s.txState = .idle) (hq : s.cmdq = tr :: rest) :
    hostTurn s = runDecoded (decode .command tr) { s with cmdq := rest } := by
  simp only [hostTurn, hi, hq, if_true]

/-- In `TX_AWAIT` the TX engine's turn runs the head of `INQ` (R130). -/
theorem txTurn_await_cons {s : State} {pkt : Packet} {rest : List Packet}
    (ha : s.txState = .await) (hq : s.inq = pkt :: rest) :
    txTurn s = runDecoded (decode .inLink pkt) { s with inq := rest } := by
  simp only [txTurn, ha, hq]

/-- The RX engine's turn runs the head of `OUTQ` (R150). -/
theorem rxTurn_cons {s : State} {pkt : Packet} {rest : List Packet} (hq : s.outq = pkt :: rest) :
    rxTurn s = runDecoded (decode .outLink pkt) { s with outq := rest } := by
  simp only [rxTurn, hq]

/-- Settles O5: the step is the scheduled turn (`step_cons`), and each fetching turn runs what it decodes. -/
theorem stepRunsDecodedInstr : Obligations.StepRunsDecodedInstr := by
  refine ⟨fun s sched tr rest i hsched hi hq hd => ?_, fun s sched pkt rest i hsched hq hd => ?_,
    fun s sched pkt rest i hsched ha hq hd => ?_⟩
  · calc step s = hostTurn { s with schedule := sched } := step_cons hsched
      _ = runDecoded (decode .command tr) { s with schedule := sched, cmdq := rest } := hostTurn_idle_cons hi hq
      _ = exec i { s with schedule := sched, cmdq := rest } := runDecoded_of_ok hd _
  · calc step s = rxTurn { s with schedule := sched } := step_cons hsched
      _ = runDecoded (decode .outLink pkt) { s with schedule := sched, outq := rest } := rxTurn_cons hq
      _ = exec i { s with schedule := sched, outq := rest } := runDecoded_of_ok hd _
  · calc step s = txTurn { s with schedule := sched } := step_cons hsched
      _ = runDecoded (decode .inLink pkt) { s with schedule := sched, inq := rest } := txTurn_await_cons ha hq
      _ = exec i { s with schedule := sched, inq := rest } := runDecoded_of_ok hd _

/-! ### The eager schedule (log 2) -/

theorem nextTurn_of_schedule_nil {s : State} (h : s.schedule = []) : nextTurn s = eagerTurn s := by
  simp only [nextTurn, h]

/-- With no turn scheduled, the step is the eager schedule's turn, as if that one had been scheduled. -/
theorem step_of_eagerTurn_some {s : State} {u : Turn} (h : s.schedule = []) (hu : eagerTurn s = some u) :
    step s = step { s with schedule := [u] } := by
  have hn : nextTurn s = some u := (nextTurn_of_schedule_nil h).trans hu
  rw [step_eq s, hn, h, List.tail_nil]
  exact (step_cons (s := { s with schedule := [u] }) rfl).symm

/-- With no turn scheduled and none enabled, all state persists (R229). -/
theorem step_of_eagerTurn_none {s : State} (h : s.schedule = []) (hu : eagerTurn s = none) : step s = .next s := by
  have hn : nextTurn s = none := (nextTurn_of_schedule_nil h).trans hu
  rw [step_eq s, hn]

theorem txEnabled_of_sending_or_response {s : State}
    (h : s.txState = .sending ∨ (s.txState = .await ∧ s.inq ≠ [])) : txEnabled s = true := by
  rcases h with hs | ⟨ha, hq⟩
  · simp [txEnabled, hs]
  · simp [txEnabled, ha, hq]

theorem txEnabled_eq_false_of_idle_or_waiting {s : State}
    (h : s.txState = .idle ∨ (s.txState = .await ∧ s.inq = [])) : txEnabled s = false := by
  rcases h with hi | ⟨ha, hq⟩
  · simp [txEnabled, hi]
  · simp [txEnabled, ha, hq]

theorem eagerTurn_tx {s : State} (h : txEnabled s = true) : eagerTurn s = some .tx := by
  simp [eagerTurn, h]

theorem eagerTurn_link {s : State} (h : txEnabled s = false) (hr : s.respValid = true) : eagerTurn s = some .link := by
  simp [eagerTurn, h, hr]

theorem eagerTurn_rx {s : State} (h : txEnabled s = false) (hr : s.respValid = false) (ho : s.outq ≠ []) :
    eagerTurn s = some .rx := by
  simp [eagerTurn, h, hr, ho]

/-- Where the block has no step of its own, the turn is the host's if it has a command to present in `TX_IDLE`. -/
theorem eagerTurn_of_block_at_rest {s : State} (h : txEnabled s = false) (hr : s.respValid = false) (ho : s.outq = []) :
    eagerTurn s = if s.txState = .idle ∧ s.cmdq ≠ [] then some .host else none := by
  simp [eagerTurn, h, hr, ho]

/-- Settles O6: in each case the eager turn is the one named, and the step takes it. -/
theorem emptyScheduleIsEager : Obligations.EmptyScheduleIsEager := by
  intro s h
  refine ⟨fun htx => ?_, fun htx hr => ?_, fun htx hr ho => ?_, fun hi hr ho hc => ?_, fun hr ho hrest => ?_⟩
  · exact step_of_eagerTurn_some h (eagerTurn_tx (txEnabled_of_sending_or_response htx))
  · exact step_of_eagerTurn_some h (eagerTurn_link (txEnabled_eq_false_of_idle_or_waiting htx) hr)
  · exact step_of_eagerTurn_some h (eagerTurn_rx (txEnabled_eq_false_of_idle_or_waiting htx) hr ho)
  · have hhost := eagerTurn_of_block_at_rest (txEnabled_eq_false_of_idle_or_waiting (.inl hi)) hr ho
    rw [if_pos ⟨hi, hc⟩] at hhost
    exact step_of_eagerTurn_some h hhost
  · have htx := txEnabled_eq_false_of_idle_or_waiting (hrest.imp_left And.left)
    have hno : ¬(s.txState = .idle ∧ s.cmdq ≠ []) := by
      rintro ⟨hi, hc⟩
      rcases hrest with ⟨-, hq⟩ | ⟨ha, -⟩
      · exact hc hq
      · rw [hi] at ha; cases ha
    have hnone := eagerTurn_of_block_at_rest htx hr ho
    rw [if_neg hno] at hnone
    exact step_of_eagerTurn_none h hnone

end Sys2Proof.Machine
end

section
/-! Proofs for 10_state.md: the reset values, the parameters, who writes which register, and what the TX side learns of the RX side. -/

namespace Sys2Proof.Machine

/-! ### The reset state (R44) -/

/-- Settles O44: each value is read off `State.resetWith`. -/
theorem resetValues : Obligations.ResetValues :=
  ⟨fun c => ⟨State.resetWith c, rfl, rfl, rfl, rfl, rfl, rfl, rfl, rfl, rfl, rfl, rfl, rfl, rfl, rfl, rfl, rfl, rfl, rfl, rfl, rfl⟩,
    rfl, rfl, rfl, rfl, rfl⟩

/-! ### The parameters (R22) -/

theorem takeTurn_params {u : Turn} {s t : State} (h : takeTurn u s = .next t) : t.params = s.params := by
  cases u with
  | host => rw [(hostTurn_frame h).1]
  | tx => rw [txTurn_frame h]
  | link => cases h; rw [linkStep_frame]
  | rx => rw [(rxTurn_frame h).1]
  | executor r => cases h; rw [executorStep_frame]
  | injectOut pkt => rw [(injectOut_next h).1, State.emitOut_params]
  | injectIn pkt => rw [(injectIn_next h).1, State.emitIn_params]
  | hardwareReset => cases h; rfl

/-- Settles O54: no turn writes a parameter, hardware reset included. -/
theorem parametersNeverChange : Obligations.ParametersNeverChange := by
  intro s t h
  rcases step_next h with ⟨-, rfl⟩ | ⟨u, -, hu⟩
  · rfl
  · exact (takeTurn_params hu :)

/-! ### The owners of the registers (R46) -/

/-- Settles O56: each turn's frame names the fields it may write, and those are the owner's. -/
theorem onlyOwnersWrite : Obligations.OnlyOwnersWrite := by
  intro s t h hreset
  rcases step_next h with ⟨-, rfl⟩ | ⟨u, hn, hu⟩
  · simp
  · rw [hn] at hreset ⊢
    cases u with
    | host => rw [(hostTurn_frame hu).1]; simp
    | tx => rw [txTurn_frame hu]; simp
    | link => cases hu; rw [linkStep_frame]; simp
    | rx => rw [(rxTurn_frame hu).1]; simp
    | executor r => cases hu; rw [executorStep_frame]; simp
    | injectOut pkt => rw [(injectOut_next hu).1]; simp
    | injectIn pkt => rw [(injectIn_next hu).1]; simp
    | hardwareReset => exact absurd rfl hreset

/-! ### The codes of RX_LAST (R36) -/

/-- A completion records the executor's own byte, or Idle or BusyError where that byte is 0 (R194). -/
theorem completionStatus_cases (r : Byte) (busyHit : Bool) :
    completionStatus r busyHit = r ∨ completionStatus r busyHit = stIdle ∨ completionStatus r busyHit = stBusyError := by
  unfold completionStatus
  split_ifs
  · exact .inl rfl
  · exact .inr (.inr rfl)
  · exact .inr (.inl rfl)

theorem executorStep_rxLast (r : Byte) (s : State) :
    (executorStep r s).rxLast = s.rxLast ∨ (executorStep r s).rxLast = completionStatus r s.rxBusyHit := by
  unfold executorStep
  split_ifs
  · exact .inr rfl
  · exact .inl rfl

theorem takeTurn_rxLast {u : Turn} {s t : State} (h : takeTurn u s = .next t) :
    t.rxLast = s.rxLast ∨ t.rxLast ∈ [0x00#8, 0x01#8, 0x02#8, 0x06#8, 0x07#8, 0x08#8] ∨ u = .executor t.rxLast := by
  cases u with
  | host => exact .inl (by rw [(hostTurn_frame h).1])
  | tx => exact .inl (by rw [txTurn_frame h])
  | link => cases h; exact .inl (by rw [linkStep_frame])
  | rx => exact (rxTurn_frame h).2.2.imp_right .inl
  | executor r =>
    cases h
    rcases executorStep_rxLast r s with e | e
    · exact .inl e
    · rw [e]
      rcases completionStatus_cases r s.rxBusyHit with e | e | e
      · exact .inr (.inr (by rw [e]))
      · exact .inr (.inl (by simp [e, stIdle]))
      · exact .inr (.inl (by simp [e, stBusyError]))
  | injectOut pkt => exact .inl (by rw [(injectOut_next h).1, State.emitOut_rxLast])
  | injectIn pkt => exact .inl (by rw [(injectIn_next h).1, State.emitIn_rxLast])
  | hardwareReset => cases h; exact .inr (.inl (List.mem_cons_self ..))

/-- Settles O57: the RX engine records R39's codes, and any other code is an executor's own. -/
theorem rxLastCodes : Obligations.RxLastCodes := by
  refine ⟨fun s t h => ?_, fun s h => by simp [reportedStatus, h]⟩
  rcases step_next h with ⟨-, rfl⟩ | ⟨u, hn, hu⟩
  · exact .inl rfl
  · rw [hn]
    exact (takeTurn_rxLast hu).imp_right (Or.imp_right (congrArg some))

/-! ### The TX side does not see the RX side (R43) -/

/-- `s` with the RX registers, `RXBUF` and the response slot of `r`. -/
def State.withRxOf (s r : State) : State :=
  { s with rxState := r.rxState, rxbuf := r.rxbuf, rxTotal := r.rxTotal, rxCount := r.rxCount, rxCrcExp := r.rxCrcExp,
           rxLast := r.rxLast, rxBusyHit := r.rxBusyHit, resp := r.resp, respValid := r.respValid }

@[simp] theorem State.withRxOf_params (s r : State) : (s.withRxOf r).params = s.params := rfl
@[simp] theorem State.withRxOf_txState (s r : State) : (s.withRxOf r).txState = s.txState := rfl
@[simp] theorem State.withRxOf_inq (s r : State) : (s.withRxOf r).inq = s.inq := rfl
@[simp] theorem State.withRxOf_cmdq (s r : State) : (s.withRxOf r).cmdq = s.cmdq := rfl

/-- A result with its next state changed by `f`. -/
def mapNext (f : State → State) : Result → Result
  | .next s => .next (f s)
  | .fault e => .fault e
  | .refused e => .refused e

@[simp] theorem mapNext_next (f : State → State) (s : State) : mapNext f (.next s) = .next (f s) := rfl
@[simp] theorem mapNext_refused (f : State → State) (e : Refusal) : mapNext f (.refused e) = .refused e := rfl

section
variable (r s : State)

theorem whenTxIdle_withRxOf {f : State → State} (hf : f (s.withRxOf r) = (f s).withRxOf r) :
    whenTxIdle (s.withRxOf r) f = mapNext (·.withRxOf r) (whenTxIdle s f) := by
  unfold whenTxIdle
  rw [State.withRxOf_txState, apply_ite (mapNext _), mapNext_next, mapNext_next, hf]

theorem whenTxAwait_withRxOf {f : State → State} (hf : f (s.withRxOf r) = (f s).withRxOf r) :
    whenTxAwait (s.withRxOf r) f = mapNext (·.withRxOf r) (whenTxAwait s f) := by
  unfold whenTxAwait
  rw [State.withRxOf_txState, apply_ite (mapNext _), mapNext_next, mapNext_next, hf]

theorem exec_command_withRxOf {tr : Transaction} {i : Instr} (hd : decode .command tr = .ok i) :
    exec i (s.withRxOf r) = mapNext (·.withRxOf r) (exec i s) := by
  rcases decodeCommand_ok hd with rfl | ⟨m, rfl⟩ | rfl | rfl | ⟨b, rfl⟩ | rfl
  · simp only [exec, execCmdPing]; exact whenTxIdle_withRxOf r s (by rfl)
  · simp only [exec, execCmdSend]
    refine whenTxIdle_withRxOf r s ?_
    simp only [State.withRxOf_params, apply_ite (State.withRxOf · r)]
    rfl
  · simp only [exec, execCmdReset]; exact whenTxIdle_withRxOf r s (by rfl)
  · simp only [exec, execCmdCrcClear]; exact whenTxIdle_withRxOf r s (by rfl)
  · simp only [exec, execCmdCrcFeed]; exact whenTxIdle_withRxOf r s (by rfl)
  · simp only [exec, execCmdCrcRead]; exact whenTxIdle_withRxOf r s (by rfl)

theorem exec_response_withRxOf (pkt : Packet) :
    exec (decodeResponse pkt) (s.withRxOf r) = mapNext (·.withRxOf r) (exec (decodeResponse pkt) s) := by
  unfold decodeResponse
  split
  · simp only [exec, execResp]; exact whenTxAwait_withRxOf r s (by rfl)
  · simp only [exec, execRespShort]; exact whenTxAwait_withRxOf r s (by rfl)

theorem emitNext_withRxOf : emitNext (s.withRxOf r) = (emitNext s).withRxOf r := by
  unfold emitNext
  rw [apply_ite (State.withRxOf · r)]
  rfl

theorem hostTurn_withRxOf : hostTurn (s.withRxOf r) = mapNext (·.withRxOf r) (hostTurn s) := by
  by_cases hi : s.txState = .idle
  · cases hq : s.cmdq with
    | nil => simp [hostTurn, hq]
    | cons tr rest =>
      rw [hostTurn_idle_cons hi hq, hostTurn_idle_cons (s := s.withRxOf r) hi hq]
      cases hd : decode .command tr with
      | ok i => exact exec_command_withRxOf r { s with cmdq := rest } hd
      | error e => rfl
  · simp [hostTurn, hi]

theorem txTurn_withRxOf : txTurn (s.withRxOf r) = mapNext (·.withRxOf r) (txTurn s) := by
  cases hs : s.txState with
  | idle => simp [txTurn, hs]
  | sending => simp [txTurn, hs, emitNext_withRxOf]
  | await =>
    cases hq : s.inq with
    | nil => simp [txTurn, hs, hq]
    | cons pkt rest =>
      rw [txTurn_await_cons hs hq, txTurn_await_cons (s := s.withRxOf r) hs hq]
      exact exec_response_withRxOf r { s with inq := rest } pkt

/-- A step of the host or of the TX engine commutes with any change of the RX side. -/
theorem step_withRxOf {u : Turn} {sched : List Turn} (hsched : s.schedule = u :: sched) (hu : u = .host ∨ u = .tx) :
    step (s.withRxOf r) = mapNext (·.withRxOf r) (step s) := by
  rw [step_cons hsched, step_cons (s := s.withRxOf r) hsched]
  rcases hu with rfl | rfl
  · exact hostTurn_withRxOf r { s with schedule := sched }
  · exact txTurn_withRxOf r { s with schedule := sched }

end

/-- Settles O58: the second state is the first with another RX side, which the step carries along unread. -/
theorem txSideIgnoresRxState : Obligations.TxSideIgnoresRxState := by
  intro s s' u sched hs' hsched hu
  have hstep : step s' = mapNext (·.withRxOf s') (step s) :=
    (congrArg step hs').trans (step_withRxOf s' s hsched hu)
  refine ⟨fun e he => ?_, fun t ht => ?_⟩
  · rw [hstep, he, mapNext_refused]
  · rw [hstep, ht, mapNext_next]; rfl

end Sys2Proof.Machine
end

section
/-! Proofs for 10_state.md: the invariant of the system, at reset and at every step. -/

namespace Sys2Proof.Machine

/-! ### The parts of the invariant -/

theorem p_le_pMax {c : Params} (h : c.wf = true) : c.p ≤ c.pMax := by
  simp only [Params.wf, Bool.and_eq_true, decide_eq_true_eq] at h
  exact h.1.2

theorem one_le_pMax {c : Params} (h : c.wf = true) : 1 ≤ c.pMax := by
  simp only [Params.wf, Bool.and_eq_true, decide_eq_true_eq] at h
  exact h.1.1.trans h.1.2

/-- What `TxInv` and the canonical form of `TXBUF` read of a state. -/
def txPart (s : State) : Params × Nat × TxState × Buffer × Byte × Nat × Bool × Word :=
  (s.params, s.resets, s.txState, s.txbuf, s.txLen, s.txPos, s.txStarted, s.txCrc)

/-- What `RxInv` and the canonical form of `RXBUF` read of a state. -/
def rxPart (s : State) : Params × Nat × RxState × Buffer × Byte × Nat × Word :=
  (s.params, s.resets, s.rxState, s.rxbuf, s.rxTotal, s.rxCount, s.rxCrcExp)

theorem TxInv.congr {s t : State} (h : TxInv s) (e : txPart t = txPart s) : TxInv t := by
  simp only [txPart, Prod.mk.injEq] at e
  obtain ⟨hp, hr, hst, hb, hl, hpos, hstarted, hcrc⟩ := e
  have hm : txMessage t = txMessage s := txMessage_congr hb hr hl
  constructor <;> simp only [hp, hst, hb, hl, hpos, hstarted, hcrc, hm]
  exacts [h.pos_le, h.sending_size, h.sending_pos, h.sending_start, h.sending_written, h.sending_crc]

theorem RxInv.congr {s t : State} (h : RxInv s) (e : rxPart t = rxPart s) : RxInv t := by
  simp only [rxPart, Prod.mk.injEq] at e
  obtain ⟨hp, hr, hst, hb, hl, hcount, hcrc⟩ := e
  have hm : rxMessage t = rxMessage s := rxMessage_congr hb hr hl
  have hbyte : rxByte t = rxByte s := rxByte_congr hb hr
  constructor <;> simp only [hp, hst, hb, hl, hcount, hcrc, hm, hbyte]
  exacts [h.count_le, h.receiving_count, h.receiving_written, h.executing_count, h.executing_written, h.executing_crc,
    h.executing_table]

/-- Outside `TX_SENDING` only the bound on `TX_POS` is left. -/
theorem TxInv.of_not_sending {s : State} (hs : s.txState ≠ .sending) (hle : s.txPos ≤ s.txLen.toNat) : TxInv s where
  pos_le := hle
  sending_size h := absurd h hs
  sending_pos h := absurd h hs
  sending_start h := absurd h hs
  sending_written h := absurd h hs
  sending_crc h := absurd h hs

/-- In `RX_IDLE` only the bound on `RX_COUNT` is left. -/
theorem RxInv.of_idle {s : State} (hs : s.rxState = .idle) (hle : s.rxCount ≤ s.rxTotal.toNat) : RxInv s where
  count_le := hle
  receiving_count h := by simp [hs] at h
  receiving_written h := by simp [hs] at h
  executing_count h := by simp [hs] at h
  executing_written h := by simp [hs] at h
  executing_crc h := by simp [hs] at h
  executing_table h := by simp [hs] at h

/-- In `RX_RECEIVING` the bytes received so far are written, and fewer than announced. -/
theorem RxInv.of_receiving {s : State} (hs : s.rxState = .receiving) (hlt : s.rxCount < s.rxTotal.toNat)
    (hw : bufWritten s.rxbuf s.rxCount = true) : RxInv s where
  count_le := hlt.le
  receiving_count _ := hlt
  receiving_written _ := hw
  executing_count h := by simp [hs] at h
  executing_written h := by simp [hs] at h
  executing_crc h := by simp [hs] at h
  executing_table h := by simp [hs] at h

/-- A whole message that passed the CRC and table checks may be handed to the executor (R192). -/
theorem startExecuting_rxInv {s : State} (heq : s.rxCount = s.rxTotal.toNat) (hw : bufWritten s.rxbuf s.rxCount = true)
    (hcrc : crc16 s.params.rxCrc (rxMessage s) = s.rxCrcExp)
    (htable : tableLength s.params.msgTable (rxByte s 0) = some s.rxTotal.toNat) : RxInv s.startExecuting where
  count_le := heq.le
  receiving_count h := by cases h
  receiving_written h := by cases h
  executing_count _ := heq
  executing_written _ := heq ▸ hw
  executing_crc _ := hcrc
  executing_table _ := htable

theorem outqFits_iff (s : State) : outqFits s = true ↔ ∀ pkt ∈ s.outq, pkt.length ≤ s.params.pMax := by
  simp only [outqFits, List.all_eq_true, decide_eq_true_eq]

theorem outqFits_emitOut {s : State} {pkt : Packet} (h : outqFits s = true) (hl : pkt.length ≤ s.params.pMax) :
    outqFits (s.emitOut pkt) = true := by
  rw [outqFits_iff] at h ⊢
  intro q hq
  rcases List.mem_append.1 hq with hq | hq
  · exact h q hq
  · rw [List.mem_singleton.1 hq]; exact hl

/-- A turn that leaves the RX side alone keeps the invariant if it keeps the TX side's part. -/
theorem Inv.of_rxPart_eq {s t : State} (h : Inv s) (hrx : rxPart t = rxPart s) (hbuf : t.txbuf.wf = true) (htx : TxInv t)
    (hq : outqFits t = true) : Inv t := by
  have hrx' := h.rx.congr hrx
  simp only [rxPart, Prod.mk.injEq] at hrx
  obtain ⟨hp, -, -, hb, -⟩ := hrx
  exact ⟨hp ▸ h.params_wf, hbuf, hb ▸ h.rxbuf_wf, htx, hrx', hq⟩

/-- A turn that leaves the TX side alone keeps the invariant if it keeps the RX side's part. -/
theorem Inv.of_txPart_eq {s t : State} (h : Inv s) (htx : txPart t = txPart s) (hbuf : t.rxbuf.wf = true) (hrx : RxInv t)
    (hq : outqFits t = true) : Inv t := by
  have htx' := h.tx.congr htx
  simp only [txPart, Prod.mk.injEq] at htx
  obtain ⟨hp, -, -, hb, -⟩ := htx
  exact ⟨hp ▸ h.params_wf, hb ▸ h.txbuf_wf, hbuf, htx', hrx, hq⟩

/-- A turn that leaves both sides alone keeps the invariant if what it puts on `OUTQ` fits. -/
theorem Inv.of_parts_eq {s t : State} (h : Inv s) (htx : txPart t = txPart s) (hrx : rxPart t = rxPart s)
    (hq : outqFits t = true) : Inv t := by
  have hrx' := h.rx.congr hrx
  simp only [rxPart, Prod.mk.injEq] at hrx
  obtain ⟨-, -, -, hb, -⟩ := hrx
  exact h.of_txPart_eq htx (hb ▸ h.rxbuf_wf) hrx' hq

/-! ### The reset state -/

/-- Whatever the outside has yet to do, and however many resets there have been (log 6, log 8). -/
theorem inv_resetWith {c : Params} (hc : c.wf = true) (cmds : List Transaction) (turns : List Turn) (n : Nat) :
    Inv { State.resetWith c with cmdq := cmds, schedule := turns, resets := n } where
  params_wf := hc
  txbuf_wf := bufWf_nil
  rxbuf_wf := bufWf_nil
  tx := .of_not_sending (by simp [State.resetWith]) (Nat.zero_le _)
  rx := .of_idle rfl (Nat.zero_le _)
  outq_fits := rfl

/-- After reset no Ping is under way, and the TX engine awaits none. -/
theorem pingsAccounted_resetWith (c : Params) : PingsAccounted (State.resetWith c) := rfl

/-- Settles O51: the default parameters are well-formed, so both halves are the lemmas about `State.resetWith`. -/
theorem resetMeetsInvariants : Obligations.ResetMeetsInvariants :=
  ⟨⟨inv_resetWith (by decide) [] [] 0, pingsAccounted_resetWith _⟩,
    fun c hc => ⟨inv_resetWith hc [] [] 0, pingsAccounted_resetWith c⟩⟩

/-! ### The host's turn -/

/-- SEND loads the message and its CRC at `TX_POS` 0 (R123). -/
theorem loadMessage_txInv {s : State} {m : List Byte} (h0 : 1 ≤ m.length) (hm : m.length ≤ msgMax) (hp : 4 ≤ s.params.p) :
    TxInv (s.loadMessage m) where
  pos_le := Nat.zero_le _
  sending_size _ := hp
  sending_pos _ := by rw [loadMessage_txLen hm]; exact h0
  sending_start _ _ := rfl
  sending_written _ := by
    have hw : bufWritten (bufWrite s.txbuf 0 m) (0 + m.length) = true := bufWritten_write m rfl
    rw [loadMessage_txLen hm, State.loadMessage_txbuf]
    rwa [Nat.zero_add] at hw
  sending_crc _ := by rw [loadMessage_txMessage hm]; rfl

theorem hostTurn_keeps_inv {s t : State} (h : Inv s) (ht : hostTurn s = .next t) : Inv t := by
  rcases hostTurn_next ht with rfl | ⟨tr, rest, i, hi, -, hd, he⟩
  · exact h
  have h1 : ∀ op : Byte, outqFits (s.emitOut [op]) = true := fun op => outqFits_emitOut h.outq_fits (one_le_pMax h.params_wf)
  rcases command_cases (s := { s with cmdq := rest }) hd hi he with
    rfl | ⟨m, h0, hm, hp, rfl⟩ | ⟨e, rfl⟩ | rfl | ⟨w, rfl⟩ | ⟨w, rfl⟩
  · exact h.of_rxPart_eq rfl h.txbuf_wf (.of_not_sending (by simp) h.tx.pos_le) (h1 _)
  · exact h.of_rxPart_eq rfl (bufWrite_wf m (by omega) h.txbuf_wf) (loadMessage_txInv h0 hm hp) h.outq_fits
  · exact h.of_parts_eq rfl rfl h.outq_fits
  · exact h.of_parts_eq rfl rfl (h1 _)
  · exact h.of_parts_eq rfl rfl h.outq_fits
  · exact h.of_parts_eq rfl rfl h.outq_fits

/-! ### The TX engine's turn -/

/-- `s` with a packet on `OUTQ` that carries the message up to `n`: the shape of both emissions (R126, R127). -/
def State.advance (s : State) (pkt : Packet) (n : Nat) : State :=
  { s.emitOut pkt with txPos := n, txStarted := true, txState := if n = s.txLen.toNat then .idle else s.txState }

/-- An emission advances within the message, by a packet of at most `P` bytes. -/
theorem emitNext_eq_advance {s : State} (hp : 4 ≤ s.params.p) (hle : s.txPos ≤ s.txLen.toNat) :
    ∃ pkt n, emitNext s = s.advance pkt n ∧ pkt.length ≤ s.params.p ∧ n ≤ s.txLen.toNat := by
  rcases emitNext_cases s with ⟨-, e⟩ | ⟨hst, e⟩
  · refine ⟨_, _, e, ?_, Nat.min_le_left ..⟩
    have : startCount s ≤ s.params.p - 4 := Nat.min_le_right ..
    rw [startPacket_length]; omega
  · refine ⟨contPacket s, s.txPos + contCount s, by rw [e, State.advance, ← hst]; rfl, ?_, ?_⟩
    · have : contCount s ≤ s.params.p - 1 := Nat.min_le_left ..
      rw [contPacket_length]; omega
    · have : contCount s ≤ s.txLen.toNat - s.txPos := Nat.min_le_right ..
      omega

/-- Either the whole message is out and the engine is idle, or `TX_POS` is still below `TX_LEN`. -/
theorem advance_txInv {s : State} {pkt : Packet} {n : Nat} (h : TxInv s) (hs : s.txState = .sending) (hn : n ≤ s.txLen.toNat) :
    TxInv (s.advance pkt n) := by
  by_cases he : n = s.txLen.toNat
  · exact .of_not_sending (by simp [State.advance, he]) hn
  · exact
      { pos_le := hn
        sending_size := fun _ => h.sending_size hs
        sending_pos := fun _ => Nat.lt_of_le_of_ne hn he
        sending_start := fun _ hc => by cases hc
        sending_written := fun _ => h.sending_written hs
        sending_crc := fun _ => h.sending_crc hs }

theorem txTurn_keeps_inv {s t : State} (h : Inv s) (ht : txTurn s = .next t) : Inv t := by
  rcases txTurn_next ht with rfl | ⟨hs, rfl⟩ | ⟨pkt, rest, ha, -, he⟩
  · exact h
  · obtain ⟨pkt, n, e, hl, hn⟩ := emitNext_eq_advance (h.tx.sending_size hs) h.tx.pos_le
    rw [e]
    exact h.of_rxPart_eq rfl h.txbuf_wf (advance_txInv h.tx hs hn)
      (outqFits_emitOut h.outq_fits (hl.trans (p_le_pMax h.params_wf)) :)
  · rcases response_cases (s := { s with inq := rest }) he ha with ⟨status, rfl⟩ | rfl
    · exact h.of_rxPart_eq rfl h.txbuf_wf (.of_not_sending (by simp) h.tx.pos_le) h.outq_fits
    · exact h.of_rxPart_eq rfl h.txbuf_wf (.of_not_sending (by simp) h.tx.pos_le) h.outq_fits

/-! ### The RX engine's turn -/

/-- The last line of R153 and R156 keeps the RX side's part, from a chunk just stored: the message is not whole yet, or
is rejected, or its CRC and its row of `MSG_TABLE` have been checked. -/
theorem completeIfWhole_keeps_rx {s t : State} (hs : s.rxState = .receiving) (hle : s.rxCount ≤ s.rxTotal.toNat)
    (hw : bufWritten s.rxbuf s.rxCount = true) (hbuf : s.rxbuf.wf = true) (h : completeIfWhole s = .next t) :
    t.rxbuf.wf = true ∧ RxInv t := by
  rcases completeIfWhole_cases h with ⟨hne, rfl⟩ | ⟨-, code, rfl, -⟩ | ⟨heq, hcrc, htable, rfl⟩
  · exact ⟨hbuf, .of_receiving hs (Nat.lt_of_le_of_ne hle hne) hw⟩
  · exact ⟨hbuf, .of_idle rfl hle⟩
  · exact ⟨hbuf, startExecuting_rxInv heq hw hcrc htable⟩

/-- Any packet keeps the RX side's part. -/
theorem packet_keeps_rx {pkt : Packet} {s t : State} (hbuf : s.rxbuf.wf = true) (h : RxInv s)
    (ht : exec (decodePacket pkt) s = .next t) : t.rxbuf.wf = true ∧ RxInv t := by
  rcases packet_cases ht with ⟨rfl, -⟩ | ⟨rfl, -⟩ |
    ⟨-, ⟨-, rfl⟩ | ⟨-, rfl⟩ | ⟨-, rfl⟩ | ⟨-, rfl⟩ | ⟨hr, chunk, hc⟩ | ⟨-, totalLen, crc, chunk, -, hc⟩⟩
  · exact ⟨hbuf, h⟩
  · exact ⟨hbuf, h.congr rfl⟩
  · exact ⟨hbuf, h.congr rfl⟩
  · exact ⟨hbuf, .of_idle rfl (Nat.zero_le _)⟩
  · exact ⟨hbuf, .of_idle rfl h.count_le⟩
  · exact ⟨hbuf, .of_idle rfl h.count_le⟩
  · exact completeIfWhole_keeps_rx (s := s.appendChunk chunk) hr (rxCount_add_storeCount_le chunk h.count_le)
      (appendChunk_written chunk (h.receiving_written hr)) (appendChunk_rxbuf_wf chunk hbuf) hc
  · exact completeIfWhole_keeps_rx (s := acceptStart totalLen crc chunk s) rfl
      (rxCount_add_storeCount_le (s := s.beginMessage totalLen crc) chunk (Nat.zero_le _))
      (appendChunk_written (s := s.beginMessage totalLen crc) chunk rfl)
      (appendChunk_rxbuf_wf (s := s.beginMessage totalLen crc) chunk hbuf) hc

theorem rxTurn_keeps_inv {s t : State} (h : Inv s) (ht : rxTurn s = .next t) : Inv t := by
  rcases rxTurn_next ht with rfl | ⟨pkt, rest, hq, he⟩
  · exact h
  have hfits : outqFits { s with outq := rest } = true := by
    have hall := (outqFits_iff s).1 h.outq_fits
    rw [hq] at hall
    exact (outqFits_iff _).2 fun p hp => hall p (List.mem_cons_of_mem _ hp)
  have hrest : Inv { s with outq := rest } := h.of_parts_eq rfl rfl hfits
  obtain ⟨hbuf, hrx⟩ := packet_keeps_rx hrest.rxbuf_wf hrest.rx he
  have hframe := (packet_frame he).1
  exact hrest.of_txPart_eq (by rw [hframe]; rfl) hbuf hrx (by rw [hframe]; exact hfits)

/-! ### The other turns, and the step -/

theorem linkStep_keeps_inv {s : State} (h : Inv s) : Inv (linkStep s) := by
  rw [linkStep_frame]
  exact h.of_parts_eq rfl rfl h.outq_fits

theorem executorStep_keeps_inv {s : State} (r : Byte) (h : Inv s) : Inv (executorStep r s) := by
  unfold executorStep
  split_ifs
  · exact h.of_txPart_eq rfl h.rxbuf_wf (.of_idle rfl h.rx.count_le) h.outq_fits
  · exact h

theorem takeTurn_keeps_inv {u : Turn} {s t : State} (h : Inv s) (ht : takeTurn u s = .next t) : Inv t := by
  cases u with
  | host => exact hostTurn_keeps_inv h ht
  | tx => exact txTurn_keeps_inv h ht
  | link => cases ht; exact linkStep_keeps_inv h
  | rx => exact rxTurn_keeps_inv h ht
  | executor r => cases ht; exact executorStep_keeps_inv r h
  | injectOut pkt =>
    obtain ⟨rfl, hl⟩ := injectOut_next ht
    exact h.of_parts_eq rfl rfl (outqFits_emitOut h.outq_fits hl)
  | injectIn pkt =>
    obtain ⟨rfl, -⟩ := injectIn_next ht
    exact h.of_parts_eq rfl rfl h.outq_fits
  | hardwareReset => cases ht; exact inv_resetWith h.params_wf s.cmdq s.schedule (s.resets + 1)

/-- Settles O52: moving the schedule on keeps the invariant, and so does every turn. -/
theorem stepKeepsInv : Obligations.StepKeepsInv := by
  intro s t h ht
  rcases step_next ht with ⟨-, rfl⟩ | ⟨u, -, hu⟩
  · exact h
  · have hmoved : Inv { s with schedule := s.schedule.tail } := h.of_parts_eq rfl rfl h.outq_fits
    exact takeTurn_keeps_inv hmoved hu

end Sys2Proof.Machine
end

section
/-! Proofs for 20_memory.md: the response link step, and the message the executor is offered. -/

namespace Sys2Proof.Machine

/-! ### The response link step (R57) -/

/-- With a response waiting, the link moves it to `INQ`. -/
theorem linkStep_of_respValid {s : State} (h : s.respValid = true) :
    linkStep s = { s with inq := s.inq ++ [[s.resp.1, s.resp.2]], respValid := false } :=
  if_pos h

/-- With no response waiting, the link holds. -/
theorem linkStep_of_not_respValid {s : State} (h : s.respValid = false) : linkStep s = s :=
  if_neg (Bool.eq_false_iff.1 h)

/-- A Ping packet always writes the response slot, whether or not a response waits in it (R151). -/
theorem exec_pktPing (ignored : List Byte) (s : State) : exec (.pktPing ignored) s = .next s.answerPing := rfl

/-- Settles O41: a scheduled link turn is `linkStep`, in its two cases, and a Ping's answer leaves `INQ` to the link. -/
theorem linkStepMovesResponse : Obligations.LinkStepMovesResponse := by
  refine ⟨fun s sched hsched hv => ?_, fun s sched hsched hv => ?_, fun s t ignored _ ht => ?_⟩
  · calc step s = .next (linkStep { s with schedule := sched }) := step_cons hsched
      _ = _ := congrArg _ (linkStep_of_respValid (s := { s with schedule := sched }) hv)
  · calc step s = .next (linkStep { s with schedule := sched }) := step_cons hsched
      _ = _ := congrArg _ (linkStep_of_not_respValid (s := { s with schedule := sched }) hv)
  · rw [exec_pktPing] at ht
    cases ht
    exact ⟨s.answerPing_resp, s.answerPing_inq⟩

/-! ### The message on offer (R61, R193) -/

/-- While the executor holds a message, the RX engine discards what would overwrite it (R158), the executor only ends the
offer (R194), and the other turns leave the RX registers alone. -/
theorem takeTurn_keeps_offer {u : Turn} {s t : State} (h : takeTurn u s = .next t) (hx : s.rxState = .executing)
    (hreset : u ≠ .hardwareReset) :
    rxByte t = rxByte s ∧ t.rxTotal = s.rxTotal ∧ (t.rxState = .executing ∨ ∃ r, u = .executor r) := by
  cases u with
  | host => rw [(hostTurn_frame h).1]; exact ⟨rxByte_congr rfl rfl, rfl, .inl hx⟩
  | tx => rw [txTurn_frame h]; exact ⟨rxByte_congr rfl rfl, rfl, .inl hx⟩
  | link => cases h; rw [linkStep_frame]; exact ⟨rxByte_congr rfl rfl, rfl, .inl hx⟩
  | rx =>
    obtain ⟨hframe, hkept, -⟩ := rxTurn_frame h
    obtain ⟨hbuf, htotal, hstate⟩ := hkept hx
    have hresets : t.resets = s.resets := by rw [hframe]
    exact ⟨rxByte_congr hbuf hresets, htotal, .inl hstate⟩
  | executor r => cases h; rw [executorStep_frame]; exact ⟨rxByte_congr rfl rfl, rfl, .inr ⟨r, rfl⟩⟩
  | injectOut pkt => rw [(injectOut_next h).1]; exact ⟨rxByte_congr rfl rfl, rfl, .inl hx⟩
  | injectIn pkt => rw [(injectIn_next h).1]; exact ⟨rxByte_congr rfl rfl, rfl, .inl hx⟩
  | hardwareReset => exact absurd rfl hreset

/-- Settles O55: moving the schedule on leaves the message on offer alone, and so does every turn but hardware reset. -/
theorem offerIsStable : Obligations.OfferIsStable := by
  intro s t hx h hreset
  rcases step_next h with ⟨-, rfl⟩ | ⟨u, hn, hu⟩
  · exact ⟨fun _ => rfl, rfl, .inl hx⟩
  · rw [hn] at hreset ⊢
    have hne : u ≠ .hardwareReset := fun e => hreset (congrArg some e)
    obtain ⟨hbytes, htotal, hstate⟩ := takeTurn_keeps_offer hu hx hne
    exact ⟨congrFun hbytes, htotal, hstate.imp_right fun ⟨r, hr⟩ => ⟨r, congrArg some hr⟩⟩

end Sys2Proof.Machine
end

section
/-! Proofs for 30_encoding.md: what the four decoders accept, the packet classes, the refused transactions, and the
pseudo-instructions. -/

namespace Sys2Proof

/-! ### The opcode bytes the tables leave open -/

/-- The unassigned packet opcodes are those that are none of the four assigned ones (R77). -/
theorem unassignedPacketOpcode_of_ne {op : Byte} (h0 : op ≠ 0x00#8) (h2 : op ≠ 0x02#8) (h3 : op ≠ 0x03#8)
    (h4 : op ≠ 0x04#8) : unassignedPacketOpcode op = true := by
  simp only [unassignedPacketOpcode, Bool.or_eq_true, beq_iff_eq, decide_eq_true_eq]
  bv_omega

/-- The unknown message opcodes are those that are none of the four listed ones (R79). -/
theorem unknownMessageOpcode_of_ne {op : Byte} (h0 : op ≠ 0x00#8) (h1 : op ≠ 0x01#8) (h2 : op ≠ 0x02#8)
    (h3 : op ≠ 0x03#8) : unknownMessageOpcode op = true := by
  simp only [unknownMessageOpcode, decide_eq_true_eq]
  bv_omega

/-! ### What each decoder accepts -/

/-- `i` is a well-formed instruction of the port, with these bytes as its encoding. -/
def EncodedOn (port : Port) (bytes : List Byte) (i : Instr) : Prop :=
  encode i = bytes ∧ i.port = port ∧ i.wf = true

/-- START takes the rest apart and encoding puts it together again; START_SHORT is what is too short for that (R83, R84). -/
theorem decodeStart_encodedOn (rest : List Byte) : EncodedOn .outLink (0x02#8 :: rest) (decodeStart rest) := by
  match rest with
  | totalLen :: lo :: hi :: chunk =>
    have hbytes : le16 (fromLe16 lo hi) ++ chunk = lo :: hi :: chunk := by rw [le16_fromLe16]; rfl
    exact ⟨congrArg (0x02#8 :: totalLen :: ·) hbytes, rfl, rfl⟩
  | [] => exact ⟨rfl, rfl, rfl⟩
  | [_] => exact ⟨rfl, rfl, rfl⟩
  | [_, _] => exact ⟨rfl, rfl, rfl⟩

/-- Every packet is the encoding of what the RX decoder reads from it (R84). -/
theorem decodePacket_encodedOn (pkt : Packet) : EncodedOn .outLink pkt (decodePacket pkt) := by
  cases pkt with
  | nil => exact ⟨rfl, rfl, rfl⟩
  | cons op rest =>
    simp only [decodePacket]
    split_ifs with h0 h2 h3 h4
    · subst h0; exact ⟨rfl, rfl, rfl⟩
    · subst h2; exact decodeStart_encodedOn rest
    · subst h3; exact ⟨rfl, rfl, rfl⟩
    · subst h4; exact ⟨rfl, rfl, rfl⟩
    · exact ⟨rfl, rfl, unassignedPacketOpcode_of_ne h0 h2 h3 h4⟩

/-- Every packet is the encoding of what the response decoder reads from it (R130). -/
theorem decodeResponse_encodedOn (pkt : Packet) : EncodedOn .inLink pkt (decodeResponse pkt) := by
  match pkt with
  | _ :: _ :: _ => exact ⟨rfl, rfl, rfl⟩
  | [] => exact ⟨rfl, rfl, rfl⟩
  | [_] => exact ⟨rfl, rfl, rfl⟩

/-- An opcode and a payload that fits are the encoding of the message they name (R78, R79). -/
theorem messageOf_encodedOn {payload : List Byte} (op : Byte) (hfits : messagePayloadFits payload = true) :
    EncodedOn .message (op :: payload) (messageOf op payload).toInstr := by
  unfold messageOf
  split_ifs with h0 h1 h2 h3
  · subst h0; exact ⟨rfl, rfl, hfits⟩
  · subst h1; exact ⟨rfl, rfl, hfits⟩
  · subst h2; exact ⟨rfl, rfl, hfits⟩
  · subst h3; exact ⟨rfl, rfl, hfits⟩
  · exact ⟨rfl, rfl, Bool.and_eq_true_iff.2 ⟨unknownMessageOpcode_of_ne h0 h1 h2 h3, hfits⟩⟩

/-- An accepted message is an opcode and a payload that fits (R78). -/
theorem decodeMessage_ok {bytes : List Byte} {m : Message} (h : decodeMessage bytes = .ok m) :
    ∃ op payload, bytes = op :: payload ∧ messagePayloadFits payload = true ∧ m = messageOf op payload := by
  cases bytes with
  | nil => cases h
  | cons op payload =>
    simp only [decodeMessage] at h
    split_ifs at h with hfits
    cases h
    exact ⟨op, payload, rfl, decide_eq_true hfits, rfl⟩

theorem decodeNoOperands_ok {code : Byte} {operands : List Byte} {i j : Instr}
    (h : decodeNoOperands code operands j = .ok i) : operands = [] ∧ i = j := by
  cases operands with
  | nil => cases h; exact ⟨rfl, rfl⟩
  | cons b rest => cases h

theorem decodeFeed_ok {code : Byte} {operands : List Byte} {i : Instr} (h : decodeFeed code operands = .ok i) :
    ∃ b, operands = [b] ∧ i = .cmdCrcFeed b := by
  match operands, h with
  | [b], h => cases h; exact ⟨b, rfl, rfl⟩

/-- An accepted transaction is the code byte and R82's operand bytes (log 4). -/
theorem decodeCommand_encodedOn {tr : Transaction} {i : Instr} (h : decodeCommand tr = .ok i) : EncodedOn .command tr i := by
  cases tr with
  | nil => cases h
  | cons code operands =>
    simp only [decodeCommand] at h
    split_ifs at h with hPing hSend hReset hClear hFeed hRead
    · obtain ⟨rfl, rfl⟩ := decodeNoOperands_ok h; subst hPing; exact ⟨rfl, rfl, rfl⟩
    · cases h; subst hSend; exact ⟨rfl, rfl, rfl⟩
    · obtain ⟨rfl, rfl⟩ := decodeNoOperands_ok h; subst hReset; exact ⟨rfl, rfl, rfl⟩
    · obtain ⟨rfl, rfl⟩ := decodeNoOperands_ok h; subst hClear; exact ⟨rfl, rfl, rfl⟩
    · obtain ⟨b, rfl, rfl⟩ := decodeFeed_ok h; subst hFeed; exact ⟨rfl, rfl, rfl⟩
    · obtain ⟨rfl, rfl⟩ := decodeNoOperands_ok h; subst hRead; exact ⟨rfl, rfl, rfl⟩

/-- Settles O2: port by port, what the decoder accepts is an encoding on that port. -/
theorem encodeOfDecodeGivesBytes : Obligations.EncodeOfDecodeGivesBytes := by
  intro port bytes i h
  cases port with
  | outLink => cases h; exact decodePacket_encodedOn bytes
  | inLink => cases h; exact decodeResponse_encodedOn bytes
  | message =>
    cases hm : decodeMessage bytes with
    | error e => rw [decode, hm] at h; cases h
    | ok m =>
      rw [decode, hm] at h
      cases h
      obtain ⟨op, payload, rfl, hfits, rfl⟩ := decodeMessage_ok hm
      exact messageOf_encodedOn op hfits
  | command => exact decodeCommand_encodedOn h

/-! ### The packet classes (R84) -/

/-- Two bytes or fewer after the opcode are a START_SHORT: the round trip of `pktStartShort`, read from the bytes. -/
theorem decodePacket_startShort {rest : List Byte} (h : rest.length < 3) :
    decodePacket (0x02#8 :: rest) = .pktStartShort rest :=
  Except.ok.inj (Laws.RoundTrip.pktStartShort rest (decide_eq_true (Nat.le_of_lt_succ h)))

/-- An unassigned opcode is read as such: the round trip of `pktUnassigned`, read from the bytes. -/
theorem decodePacket_unassigned {op : Byte} (rest : List Byte) (h : op = 0x01#8 ∨ 0x05 ≤ op.toNat) :
    decodePacket (op :: rest) = .pktUnassigned op rest := by
  have hop : unassignedPacketOpcode op = true := by simpa [unassignedPacketOpcode] using h
  exact Except.ok.inj (Laws.RoundTrip.pktUnassigned op rest hop)

/-- Settles O3: START_SHORT and UNASSIGNED, which have a condition, by a lemma each; the other classes are the decoder's own
branches, and the arms of PING, RESET and a response do not mention the bytes that are not read. -/
theorem packetClassesOfR84 : Obligations.PacketClassesOfR84 :=
  ⟨rfl, fun _ => rfl, fun _ _ _ _ => rfl, fun _ => decodePacket_startShort, fun _ => rfl, fun _ => rfl,
    fun _ => decodePacket_unassigned, fun _ _ _ => rfl, fun _ _ _ => rfl, fun _ _ _ _ _ _ => rfl⟩

end Sys2Proof

namespace Sys2Proof.Machine

/-! ### Refused transactions (R120, log 4) -/

/-- In `TX_IDLE` the host's turn refuses a transaction its decoder rejects. -/
theorem step_of_decode_error {s : State} {sched : List Turn} {tr : Transaction} {rest : List Transaction} {e : DecodeError}
    (hsched : s.schedule = .host :: sched) (hi : s.txState = .idle) (hq : s.cmdq = tr :: rest)
    (hd : decode .command tr = .error e) : step s = .refused (refusalOf e) :=
  calc step s = hostTurn { s with schedule := sched } := step_cons hsched
    _ = runDecoded (decode .command tr) { s with schedule := sched, cmdq := rest } := hostTurn_idle_cons hi hq
    _ = .refused (refusalOf e) := by rw [hd]; rfl

/-- A command without operands is rejected when it has some. -/
theorem decode_command_surplus {code : Byte} (b : Byte) (operands : List Byte)
    (hc : code ∈ [0x00#8, 0x04#8, 0x10#8, 0x12#8]) :
    decode .command (code :: b :: operands) = .error (.malformedCommand (code :: b :: operands)) := by
  simp only [List.mem_cons, List.not_mem_nil, or_false] at hc
  rcases hc with rfl | rfl | rfl | rfl <;> rfl

/-- Settles O8: in each case the decoder rejects the transaction as malformed, and the host's turn refuses it. -/
theorem malformedCommandRefused : Obligations.MalformedCommandRefused := by
  intro s sched tr rest hsched hi hq hbad
  have hd : decode .command tr = .error (.malformedCommand tr) := by
    rcases hbad with rfl | ⟨code, b, operands, rfl, hc⟩ | rfl | ⟨b, c, operands, rfl⟩
    · rfl
    · exact decode_command_surplus b operands hc
    · rfl
    · rfl
  exact step_of_decode_error hsched hi hq hd

/-! ### The pseudo-instructions (R87) -/

/-- The loop's pings and the final one are the same transaction. -/
theorem expandTransactions_poll (loops : Nat) :
    expandTransactions (.poll loops) = List.replicate (loops + 1) [0x00#8] := by
  rw [expandTransactions, expand, ← List.replicate_succ', List.map_replicate, encode]

theorem pollGoesOn_iff (s : State) : pollGoesOn s = true ↔ s.txStatus = 0x04#8 := beq_iff_eq

theorem pollSucceeded_iff (s : State) : pollSucceeded s = true ↔ s.txStatus = 0x00#8 := beq_iff_eq

/-- Settles O47: a message expands to its SEND by definition, whatever the page; `poll` to its pings by `expandTransactions_poll`. -/
theorem pseudoExpansions : Obligations.PseudoExpansions :=
  ⟨rfl, fun _ _ => rfl, rfl, rfl, expandTransactions_poll, pollGoesOn_iff, pollSucceeded_iff⟩

end Sys2Proof.Machine
end

section
/-! Proofs for 41_crc16.md: the CRC commands, their run (R105), the reflected loop (R106) and the residue (R107). -/

namespace Sys2Proof.Machine

/-! ### The commands (R102 to R104) -/

theorem exec_cmdCrcClear_of_idle {s : State} (hi : s.txState = .idle) :
    exec .cmdCrcClear s = .next { s with crcReg := s.params.crc.init } := by
  simp only [exec, execCmdCrcClear, whenTxIdle_of_idle hi]

theorem exec_cmdCrcFeed_of_idle {s : State} (b : Byte) (hi : s.txState = .idle) :
    exec (.cmdCrcFeed b) s = .next { s with crcReg := crcStep s.params.crc s.crcReg b } := by
  simp only [exec, execCmdCrcFeed, whenTxIdle_of_idle hi]

theorem exec_cmdCrcRead_of_idle {s : State} (hi : s.txState = .idle) :
    exec .cmdCrcRead s = .next { s with cmdReturn := some (crcOut s.params.crc s.crcReg) } := by
  simp only [exec, execCmdCrcRead, whenTxIdle_of_idle hi]

/-- Outside `TX_IDLE` no command has an effect (R121). -/
theorem exec_command_of_busy {tr : Transaction} {i : Instr} {s : State} (hd : decode .command tr = .ok i)
    (hb : s.txState ≠ .idle) : exec i s = .next s := by
  rcases decodeCommand_ok hd with rfl | ⟨m, rfl⟩ | rfl | rfl | ⟨b, rfl⟩ | rfl <;>
    simp only [exec, execCmdPing, execCmdSend, execCmdReset, execCmdCrcClear, execCmdCrcFeed, execCmdCrcRead, whenTxIdle_of_busy hb]

/-- Settles O11: on a clear register the value written is the one that stands there. -/
theorem crcClearSetsInit : Obligations.CrcClearSetsInit := by
  refine ⟨rfl, fun s hi => exec_cmdCrcClear_of_idle hi, fun s hb => exec_command_of_busy (tr := [0x10#8]) rfl hb,
    fun s hi hclear => ?_, rfl⟩
  rw [exec_cmdCrcClear_of_idle hi, ← hclear]

/-- Settles O12: the command's arm in and outside `TX_IDLE`; the register values are evaluated. -/
theorem crcFeedSteps : Obligations.CrcFeedSteps :=
  ⟨fun _ => rfl, fun _ b hi => exec_cmdCrcFeed_of_idle b hi, fun _ b hb => exec_command_of_busy (tr := [0x11#8, b]) rfl hb,
    by decide, by decide, by decide⟩

/-- Settles O13: the command's arm in and outside `TX_IDLE`; `crc16` of no byte is `crc_out(init)` by definition. -/
theorem crcReadReturnsOutput : Obligations.CrcReadReturnsOutput :=
  ⟨rfl, fun _ hi => exec_cmdCrcRead_of_idle hi, fun _ hb => exec_command_of_busy (tr := [0x12#8]) rfl hb, fun _ => rfl,
    by decide, by decide +kernel⟩

/-! ### The run of the three commands (R105) -/

/-- In `TX_IDLE` a scheduled host's turn runs the transaction at the head of the host's commands. -/
theorem step_of_command {s : State} {sched : List Turn} {tr : Transaction} {rest : List Transaction} {i : Instr}
    (hsched : s.schedule = .host :: sched) (hi : s.txState = .idle) (hq : s.cmdq = tr :: rest) (hd : decode .command tr = .ok i) :
    step s = exec i { s with schedule := sched, cmdq := rest } :=
  stepRunsDecodedInstr.1 s sched tr rest i hsched hi hq hd

section
variable {s : State} {rest : List Transaction} {sched : List Turn}

theorem step_crcClear (hsched : s.schedule = .host :: sched) (hi : s.txState = .idle) (hq : s.cmdq = [0x10#8] :: rest) :
    step s = .next { s with crcReg := s.params.crc.init, cmdq := rest, schedule := sched } :=
  (step_of_command hsched hi hq rfl).trans (exec_cmdCrcClear_of_idle hi)

theorem step_crcFeed {b : Byte} (hsched : s.schedule = .host :: sched) (hi : s.txState = .idle) (hq : s.cmdq = [0x11#8, b] :: rest) :
    step s = .next { s with crcReg := crcStep s.params.crc s.crcReg b, cmdq := rest, schedule := sched } :=
  (step_of_command hsched hi hq rfl).trans (exec_cmdCrcFeed_of_idle b hi)

theorem step_crcRead (hsched : s.schedule = .host :: sched) (hi : s.txState = .idle) (hq : s.cmdq = [0x12#8] :: rest) :
    step s = .next { s with cmdReturn := some (crcOut s.params.crc s.crcReg), cmdq := rest, schedule := sched } :=
  (step_of_command hsched hi hq rfl).trans (exec_cmdCrcRead_of_idle hi)

/-- One CRC_FEED for each byte folds `crc_step` over the bytes, from whatever `CRC_REG` holds. -/
theorem run_crcFeeds {bytes : List Byte} (hsched : s.schedule = List.replicate bytes.length .host ++ sched) (hi : s.txState = .idle)
    (hq : s.cmdq = (bytes.map fun b => [0x11#8, b]) ++ rest) :
    core.run bytes.length s =
      .next { s with crcReg := bytes.foldl (crcStep s.params.crc) s.crcReg, cmdq := rest, schedule := sched } := by
  induction bytes generalizing s with
  | nil =>
    obtain rfl : s.cmdq = rest := hq
    obtain rfl : s.schedule = sched := hsched
    rfl
  | cons b bytes ih =>
    rw [List.length_cons, run_succ _ (step_crcFeed hsched hi hq)]
    exact ih rfl hi rfl

end

/-- Settles O14: CRC_CLEAR, then the feeds by `run_crcFeeds`, then CRC_READ. -/
theorem crcStreamingAgrees : Obligations.CrcStreamingAgrees := by
  intro s bytes rest sched hi hq hsched
  have hturns : s.schedule = .host :: (List.replicate bytes.length .host ++ .host :: sched) := by
    rw [hsched, List.replicate_succ, List.replicate_succ', List.cons_append, List.append_assoc, List.singleton_append]
  refine ⟨bytes.foldl (crcStep s.params.crc) s.params.crc.init, ?_⟩
  calc core.run (bytes.length + 2) s
    _ = core.run (bytes.length + 1) { s with
          crcReg := s.params.crc.init
          cmdq := (bytes.map fun b => [0x11#8, b]) ++ [0x12#8] :: rest
          schedule := List.replicate bytes.length .host ++ .host :: sched } := run_succ _ (step_crcClear hturns hi hq)
    _ = core.run 1 { s with
          crcReg := bytes.foldl (crcStep s.params.crc) s.params.crc.init
          cmdq := [0x12#8] :: rest
          schedule := .host :: sched } := run_add 1 (run_crcFeeds rfl hi rfl)
    _ = core.run 0 { s with
          crcReg := bytes.foldl (crcStep s.params.crc) s.params.crc.init
          cmdReturn := some (crc16 s.params.crc bytes)
          cmdq := rest
          schedule := sched } := run_succ 0 (step_crcRead rfl hi rfl)

/-! ### Reflection -/

theorem reflect16_xor (a b : Word) : reflect16 (a ^^^ b) = reflect16 a ^^^ reflect16 b := by
  apply BitVec.eq_of_getLsbD_eq
  intro i _
  simp only [reflect16, BitVec.getLsbD_xor, BitVec.getLsbD_reverse, BitVec.getMsbD_xor]

theorem reflect16_shiftLeft (w : Word) (n : Nat) : reflect16 (w <<< n) = reflect16 w >>> n := by
  apply BitVec.eq_of_getLsbD_eq
  intro i _
  simp only [reflect16, BitVec.getLsbD_ushiftRight, BitVec.getLsbD_reverse, BitVec.getMsbD_shiftLeft, Nat.add_comm n]

theorem getLsbD_reflect16 (w : Word) {i : Nat} (hi : i < 16) : (reflect16 w).getLsbD i = w.getLsbD (15 - i) := by
  rw [reflect16, BitVec.getLsbD_reverse, BitVec.getMsbD_eq_getLsbD, decide_eq_true hi, Bool.true_and]

theorem getLsbD_reflect8 (b : Byte) {i : Nat} (hi : i < 8) : (reflect8 b).getLsbD i = b.getLsbD (7 - i) := by
  rw [reflect8, BitVec.getLsbD_reverse, BitVec.getMsbD_eq_getLsbD, decide_eq_true hi, Bool.true_and]

/-- A reflected byte in the high half of a register is the byte in the low half, reflected. -/
theorem reflect16_high_reflect8 (b : Byte) : reflect16 ((reflect8 b).setWidth 16 <<< 8) = b.setWidth 16 := by
  apply BitVec.eq_of_getLsbD_eq
  intro i hi
  rw [getLsbD_reflect16 _ hi, BitVec.getLsbD_shiftLeft, BitVec.getLsbD_setWidth, BitVec.getLsbD_setWidth]
  rcases Nat.lt_or_ge i 8 with h8 | h8
  · rw [getLsbD_reflect8 _ (by omega), show 7 - (15 - i - 8) = i by omega]
    simp [hi, show ¬15 - i < 8 by omega, show 15 - i < 16 by omega, show 15 - i - 8 < 16 by omega]
  · simp [show 15 - i < 8 by omega, BitVec.getLsbD_of_ge _ _ h8]

/-- A byte of a reflected register is the byte at the mirrored place, reflected: the low one is the high one, and the other way round. -/
theorem reflect8_extract_reflect16 (w : Word) {k : Nat} (hk : k ≤ 8) :
    reflect8 ((reflect16 w).extractLsb' k 8) = w.extractLsb' (8 - k) 8 := by
  apply BitVec.eq_of_getLsbD_eq
  intro i hi
  have h7 : 7 - i < 8 := by omega
  rw [getLsbD_reflect8 _ hi, BitVec.getLsbD_extractLsb', BitVec.getLsbD_extractLsb', getLsbD_reflect16 _ (by omega),
    show 15 - (k + (7 - i)) = 8 - k + i by omega, decide_eq_true hi, decide_eq_true h7]

/-! ### The reflected loop (R106) -/

/-- One repetition of the reflected loop is one of `crc_step`, on reflected registers. -/
theorem reflectedShift_reflect16 (w : Word) : reflectedShift (reflect16 w) = reflect16 (crcShift CrcVariant.arc.poly w) := by
  have hbit : (reflect16 w).getLsbD 0 = w.getLsbD 15 := getLsbD_reflect16 w (by decide)
  have hpoly : reflect16 CrcVariant.arc.poly = 0xA001#16 := by decide
  unfold reflectedShift crcShift
  rw [hbit]
  split
  · rw [reflect16_xor, reflect16_shiftLeft, hpoly]
  · rw [reflect16_shiftLeft]

theorem reflectedShifts_reflect16 (n : Nat) (w : Word) :
    reflectedShifts n (reflect16 w) = reflect16 (crcShifts CrcVariant.arc.poly n w) := by
  induction n generalizing w with
  | zero => rfl
  | succ n ih => rw [reflectedShifts, reflectedShift_reflect16, ih, crcShifts]

/-- One byte of the reflected loop is `crc_step`, on reflected registers. -/
theorem reflectedStep_reflect16 (w : Word) (b : Byte) :
    reflectedStep (reflect16 w) b = reflect16 (crcStep CrcVariant.arc w b) :=
  calc reflectedStep (reflect16 w) b
      = reflectedShifts 8 (reflect16 (w ^^^ (reflect8 b).setWidth 16 <<< 8)) := by
        rw [reflect16_xor, reflect16_high_reflect8, reflectedStep]
    _ = reflect16 (crcStep CrcVariant.arc w b) := reflectedShifts_reflect16 8 _

/-- Settles O15: `reflectedStep_reflect16` carried along the bytes, from `init`, which is its own reflection. -/
theorem reflectedLoopAgrees : Obligations.ReflectedLoopAgrees := by
  intro bytes
  calc crc16 CrcVariant.arc bytes
      = reflect16 (bytes.foldl (crcStep CrcVariant.arc) 0x0000#16) := BitVec.xor_zero
    _ = bytes.foldl reflectedStep (reflect16 0x0000#16) := (List.foldl_hom reflect16 reflectedStep_reflect16).symm
    _ = crc16Reflected bytes := by rw [show reflect16 0x0000#16 = 0x0000#16 by decide, crc16Reflected]

/-! ### The residue (R107) -/

/-- While no set bit reaches the top, the polynomial is never added and the register is only shifted. -/
theorem crcShifts_eq_shiftLeft (poly : Word) (n : Nat) {w : Word} (h : w.toNat * 2 ^ n < 2 ^ 16) : crcShifts poly n w = w <<< n := by
  induction n generalizing w with
  | zero => rw [crcShifts, BitVec.shiftLeft_zero]
  | succ n ih =>
    have hdouble : w.toNat * 2 * 2 ^ n < 2 ^ 16 := by rwa [mul_assoc, ← pow_succ']
    have hlow : w.toNat * 2 < 2 ^ 16 := (Nat.le_mul_of_pos_right _ (Nat.two_pow_pos n)).trans_lt hdouble
    have htop : w.msb = false := BitVec.msb_eq_false_iff_two_mul_lt.2 (by omega)
    have hshift : (w <<< 1).toNat = w.toNat * 2 := by
      rw [BitVec.toNat_shiftLeft, Nat.shiftLeft_eq, pow_one, Nat.mod_eq_of_lt hlow]
    have hstep : crcShift poly w = w <<< 1 := if_neg (Bool.eq_false_iff.1 htop)
    rw [crcShifts, hstep, ih (by rwa [hshift]), ← BitVec.shiftLeft_add, Nat.add_comm]

/-- Adding a register's high byte to itself leaves the low byte. -/
theorem xor_high_byte (w : Word) : w ^^^ (w.extractLsb' 8 8).setWidth 16 <<< 8 = (w.extractLsb' 0 8).setWidth 16 := by
  apply BitVec.eq_of_getLsbD_eq
  intro i hi
  rw [BitVec.getLsbD_xor, BitVec.getLsbD_shiftLeft, BitVec.getLsbD_setWidth, BitVec.getLsbD_setWidth,
    BitVec.getLsbD_extractLsb', BitVec.getLsbD_extractLsb']
  rcases Nat.lt_or_ge i 8 with h8 | h8
  · simp [h8, hi]
  · simp [hi, show ¬i < 8 by omega, show i - 8 < 8 by omega, show i - 8 < 16 by omega, show 8 + (i - 8) = i by omega]

/-- A byte that equals the register's high byte cancels it, and the low byte moves up. -/
theorem crcStep_of_input_eq_high {v : CrcVariant} {w : Word} {b : Byte} (h : crcInput v b = w.extractLsb' 8 8) :
    crcStep v w b = (w.extractLsb' 0 8).setWidth 16 <<< 8 := by
  rw [crcStep, h, xor_high_byte]
  exact crcShifts_eq_shiftLeft _ 8 (by rw [BitVec.toNat_setWidth]; omega)

/-- A byte that is all the register holds, in its high half, clears it. -/
theorem crcStep_of_register_eq_input (v : CrcVariant) (b : Byte) : crcStep v ((crcInput v b).setWidth 16 <<< 8) b = 0x0000#16 := by
  rw [crcStep, BitVec.xor_self, crcShifts_eq_shiftLeft _ 8 (by decide), BitVec.zero_shiftLeft]

/-- Settles O16: under a reflected variant the two appended bytes enter as the register's own, high byte first, so each cancels the
high byte it meets and nothing is left. -/
theorem residueIsZero : Obligations.ResidueIsZero := by
  intro v bytes hin hout hxor
  have hcrcOut : ∀ w, crcOut v w = reflect16 w := fun w => by rw [crcOut, if_pos hout, hxor, BitVec.xor_zero]
  have hinput : ∀ b, crcInput v b = reflect8 b := fun b => if_pos hin
  generalize hw : bytes.foldl (crcStep v) v.init = w
  have hfirst : crcInput v ((reflect16 w).extractLsb' 0 8) = w.extractLsb' 8 8 :=
    (hinput _).trans (reflect8_extract_reflect16 w (Nat.zero_le 8))
  have hsecond : crcInput v ((reflect16 w).extractLsb' 8 8) = w.extractLsb' 0 8 :=
    (hinput _).trans (reflect8_extract_reflect16 w le_rfl)
  calc crc16 v (bytes ++ le16 (crc16 v bytes))
      = crcOut v (crcStep v (crcStep v w ((reflect16 w).extractLsb' 0 8)) ((reflect16 w).extractLsb' 8 8)) := by
        rw [crc16, crc16, List.foldl_append, hw, hcrcOut w]; rfl
    _ = crcOut v 0x0000#16 := by
        rw [crcStep_of_input_eq_high hfirst, ← hsecond, crcStep_of_register_eq_input]
    _ = 0x0000#16 := by rw [hcrcOut]; rfl

end Sys2Proof.Machine
end

section
/-! Proofs for 42_tx_framer_chunker.md: one Ping or its response under way, exactly in `TX_AWAIT` (R133). -/

namespace Sys2Proof.Machine

/-! ### What is under way -/

/-- Outside `TX_AWAIT` the count is of nothing: no Ping on `OUTQ`, no response in the slot or on `INQ`. -/
theorem pingsAccounted_iff_of_not_await {s : State} (hs : s.txState ≠ .await) :
    PingsAccounted s ↔ pingsIn s.outq = 0 ∧ s.respValid = false ∧ s.inq = [] := by
  rw [PingsAccounted, if_neg hs, Nat.add_eq_zero_iff, Nat.add_eq_zero_iff, List.length_eq_zero_iff, and_assoc]
  simp

theorem pingsAccounted_iff_of_await {s : State} (hs : s.txState = .await) :
    PingsAccounted s ↔ pingsIn s.outq + (if s.respValid then 1 else 0) + s.inq.length = 1 := by
  rw [PingsAccounted, if_pos hs]

/-- A change that keeps the Pings on `OUTQ`, the response slot's flag, `INQ` and `TX_STATE` keeps the count. -/
theorem PingsAccounted.congr {s t : State} (h : PingsAccounted s) (hpings : pingsIn t.outq = pingsIn s.outq)
    (hresp : t.respValid = s.respValid) (hinq : t.inq = s.inq) (hstate : t.txState = s.txState) : PingsAccounted t := by
  rw [PingsAccounted, hpings, hresp, hinq, hstate]
  exact h

/-- Where a Ping or a response is under way in a queue, none is in the slot. -/
theorem PingsAccounted.respValid_eq_false {s : State} (h : PingsAccounted s) (hqueued : 1 ≤ pingsIn s.outq + s.inq.length) :
    s.respValid = false := by
  by_contra hv
  rw [PingsAccounted, if_pos (Bool.of_not_eq_false hv)] at h
  split_ifs at h <;> omega

theorem pingsIn_cons (pkt : Packet) (q : List Packet) : pingsIn (pkt :: q) = pingsIn q + if isPing pkt then 1 else 0 :=
  List.countP_cons

/-- A packet that is no Ping adds none. -/
theorem pingsIn_snoc_of_not_ping (q : List Packet) {pkt : Packet} (h : isPing pkt = false) :
    pingsIn (q ++ [pkt]) = pingsIn q := by
  rw [pingsIn_snoc, h]; rfl

/-! ### The turns -/

/-- An accepted PING puts the one Ping under way and enters `TX_AWAIT`; no other command touches the count. -/
theorem hostTurn_keeps_pingsAccounted {s t : State} (h : PingsAccounted s) (ht : hostTurn s = .next t) : PingsAccounted t := by
  rcases hostTurn_next ht with rfl | ⟨tr, rest, i, hi, -, hd, he⟩
  · exact h
  have hna : s.txState ≠ .await := by rw [hi]; decide
  obtain ⟨hpings, hresp, hinq⟩ := (pingsAccounted_iff_of_not_await hna).1 h
  rcases command_cases (s := { s with cmdq := rest }) hd hi he with rfl | ⟨m, -, -, -, rfl⟩ | ⟨e, rfl⟩ | rfl | ⟨w, rfl⟩ | ⟨w, rfl⟩
  · refine (pingsAccounted_iff_of_await rfl).2 ?_
    simp [pingsIn_snoc, hpings, hresp, hinq, isPing]
  · exact (pingsAccounted_iff_of_not_await (by simp)).2 ⟨hpings, hresp, hinq⟩
  · exact h.congr rfl rfl rfl rfl
  · exact h.congr (pingsIn_snoc_of_not_ping _ rfl) rfl rfl rfl
  · exact h.congr rfl rfl rfl rfl
  · exact h.congr rfl rfl rfl rfl

/-- An emission ends the send or goes on with it, and what it puts on `OUTQ` is no Ping. -/
theorem emitNext_keeps_pingsAccounted {s : State} (h : PingsAccounted s) (hs : s.txState = .sending) :
    PingsAccounted (emitNext s) := by
  have hna : s.txState ≠ .await := by rw [hs]; decide
  have hstate (c : Prop) [Decidable c] : (if c then .idle else s.txState) ≠ TxState.await := by
    split_ifs
    · decide
    · exact hna
  obtain ⟨hpings, hresp, hinq⟩ := (pingsAccounted_iff_of_not_await hna).1 h
  rcases emitNext_cases s with ⟨-, e⟩ | ⟨-, e⟩
  · rw [e]
    exact (pingsAccounted_iff_of_not_await (hstate _)).2 ⟨(pingsIn_snoc_of_not_ping _ rfl).trans hpings, hresp, hinq⟩
  · rw [e]
    exact (pingsAccounted_iff_of_not_await (hstate _)).2 ⟨(pingsIn_snoc_of_not_ping _ rfl).trans hpings, hresp, hinq⟩

/-- The response taken in `TX_AWAIT` is the one under way, so nothing is left of it in `TX_IDLE`. -/
theorem txTurn_keeps_pingsAccounted {s t : State} (h : PingsAccounted s) (ht : txTurn s = .next t) : PingsAccounted t := by
  rcases txTurn_next ht with rfl | ⟨hs, rfl⟩ | ⟨r, rest, ha, hq, he⟩
  · exact h
  · exact emitNext_keeps_pingsAccounted h hs
  · have hone := (pingsAccounted_iff_of_await ha).1 h
    rw [hq, List.length_cons] at hone
    have hpings : pingsIn s.outq = 0 := by omega
    have hresp : s.respValid = false := h.respValid_eq_false (by rw [hq, List.length_cons]; omega)
    have hinq : rest = [] := List.length_eq_zero_iff.1 (by omega)
    rcases response_cases (s := { s with inq := rest }) he ha with ⟨status, rfl⟩ | rfl
    · exact (pingsAccounted_iff_of_not_await (by simp)).2 ⟨hpings, hresp, hinq⟩
    · exact (pingsAccounted_iff_of_not_await (by simp)).2 ⟨hpings, hresp, hinq⟩

/-- The response leaves the slot and stands on `INQ`. -/
theorem linkStep_keeps_pingsAccounted {s : State} (h : PingsAccounted s) : PingsAccounted (linkStep s) := by
  cases hv : s.respValid with
  | false => rw [linkStep_of_not_respValid hv]; exact h
  | true =>
    rw [linkStep_of_respValid hv]
    simp only [PingsAccounted, hv, if_true] at h
    simp only [PingsAccounted, List.length_append, List.length_singleton, Bool.false_eq_true, if_false]
    omega

/-- A Ping leaves a response in the slot, and nothing else a packet does touches the slot (R151). -/
theorem packet_respValid {pkt : Packet} {s t : State} (h : exec (decodePacket pkt) s = .next t) :
    t.respValid = (isPing pkt || s.respValid) := by
  rcases packet_cases h with ⟨rfl, hp⟩ | ⟨rfl, hp⟩ | ⟨hp, -⟩
  · rw [hp, Bool.false_or]
  · rw [hp, Bool.true_or]; rfl
  · obtain ⟨-, -, -, hkept | hping⟩ := packet_frame h
    · rw [hp, hkept, Bool.false_or]
    · rw [hp] at hping; cases hping

/-- A Ping taken from `OUTQ` becomes the response in the slot, which was empty: the Ping was the one thing under way. -/
theorem rxTurn_keeps_pingsAccounted {s t : State} (h : PingsAccounted s) (ht : rxTurn s = .next t) : PingsAccounted t := by
  rcases rxTurn_next ht with rfl | ⟨pkt, rest, hq, he⟩
  · exact h
  have hresp : t.respValid = (isPing pkt || s.respValid) := (packet_respValid he :)
  obtain ⟨hframe, -⟩ := packet_frame he
  have houtq : t.outq = rest := by rw [hframe]
  have hinq : t.inq = s.inq := by rw [hframe]
  have hstate : t.txState = s.txState := by rw [hframe]
  cases hp : isPing pkt with
  | false => exact h.congr (by rw [houtq, hq, pingsIn_cons, hp]; rfl) (by rw [hresp, hp, Bool.false_or]) hinq hstate
  | true =>
    have hslot : s.respValid = false := h.respValid_eq_false (by rw [hq, pingsIn_cons, if_pos hp]; omega)
    rw [PingsAccounted, hq, pingsIn_cons, if_pos hp, hslot, if_neg (by decide)] at h
    rw [PingsAccounted, houtq, hresp, hinq, hstate, hp, Bool.true_or, if_pos rfl]
    omega

theorem takeTurn_keeps_pingsAccounted {u : Turn} {s t : State} (h : PingsAccounted s) (hu : u.injectsPing = false)
    (ht : takeTurn u s = .next t) : PingsAccounted t := by
  cases u with
  | host => exact hostTurn_keeps_pingsAccounted h ht
  | tx => exact txTurn_keeps_pingsAccounted h ht
  | link => cases ht; exact linkStep_keeps_pingsAccounted h
  | rx => exact rxTurn_keeps_pingsAccounted h ht
  | executor r => cases ht; rw [executorStep_frame]; exact h.congr rfl rfl rfl rfl
  | injectOut pkt =>
    obtain ⟨rfl, -⟩ := injectOut_next ht
    exact h.congr (pingsIn_snoc_of_not_ping _ hu) rfl rfl rfl
  | injectIn pkt => cases hu
  | hardwareReset => cases ht; exact (pingsAccounted_resetWith s.params).congr rfl rfl rfl rfl

/-- Settles O53: moving the schedule on keeps the count, and so does every turn that injects no Ping and no response; and `INQ` holds
no more than the count. -/
theorem stepKeepsPingsAccounted : Obligations.StepKeepsPingsAccounted := by
  refine ⟨fun s t h hinject ht => ?_, fun s h => ⟨?_, fun hq => ?_⟩⟩
  · rcases step_next ht with ⟨-, rfl⟩ | ⟨u, hn, hu⟩
    · exact h
    · have hmoved : PingsAccounted { s with schedule := s.schedule.tail } := h.congr rfl rfl rfl rfl
      exact takeTurn_keeps_pingsAccounted hmoved (hinject u hn) hu
  · rw [PingsAccounted] at h
    split_ifs at h <;> omega
  · by_contra hna
    exact hq ((pingsAccounted_iff_of_not_await hna).1 h).2.2

end Sys2Proof.Machine
end

section
/-! Proofs for 42_tx_framer_chunker.md: the commands and responses (R120 to R125, R129 to R131), and what holds the host's turn. -/

namespace Sys2Proof.Machine

/-! ### The command port (R120, R121) -/

/-- Every command is what its own transaction decodes to. -/
theorem decode_encode_of_command {i : Instr} (h : i.port = .command) : decode .command (encode i) = .ok i := by
  cases i with
  | cmdPing | cmdSend | cmdReset | cmdCrcClear | cmdCrcFeed | cmdCrcRead => rfl
  | _ => cases h

/-- Settles O20: `exec_command_of_busy`, with the command's own transaction. -/
theorem commandsHaveNoEffectWhileBusy : Obligations.CommandsHaveNoEffectWhileBusy :=
  fun _ _ hport hb => exec_command_of_busy (decode_encode_of_command hport) hb

/-- A code R82 does not list is rejected whatever follows it (R85). -/
theorem decode_command_unknown {code : Byte} (operands : List Byte)
    (h : code ∉ [0x00#8, 0x02#8, 0x04#8, 0x10#8, 0x11#8, 0x12#8]) :
    decode .command (code :: operands) = .error (.unknownCommand code) := by
  simp only [List.mem_cons, List.not_mem_nil, or_false, not_or] at h
  obtain ⟨h0, h2, h4, h10, h11, h12⟩ := h
  simp only [decode, decodeCommand, h0, h2, h4, h10, h11, h12, if_false]

/-- Settles O7: the decoder rejects the code as unknown, and the host's turn refuses it. -/
theorem unknownCommandRefused : Obligations.UnknownCommandRefused :=
  fun _ _ _ operands _ hsched hi hq hcode => step_of_decode_error hsched hi hq (decode_command_unknown operands hcode)

/-! ### PING and RESET (R129, R131) -/

theorem exec_cmdPing_of_idle {s : State} (hi : s.txState = .idle) :
    exec .cmdPing s = .next { s with outq := s.outq ++ [[0x00#8]], txState := .await } := by
  simp only [exec, execCmdPing, whenTxIdle_of_idle hi]; rfl

theorem exec_cmdReset_of_idle {s : State} (hi : s.txState = .idle) :
    exec .cmdReset s = .next { s with outq := s.outq ++ [[0x04#8]] } := by
  simp only [exec, execCmdReset, whenTxIdle_of_idle hi]; rfl

/-- In `TX_AWAIT` the TX engine's turn waits while `INQ` is empty (R130). -/
theorem txTurn_await_nil {s : State} (ha : s.txState = .await) (hq : s.inq = []) : txTurn s = .next s := by
  simp only [txTurn, ha, hq]

theorem step_await_nil {s : State} {sched : List Turn} (hsched : s.schedule = .tx :: sched) (ha : s.txState = .await)
    (hq : s.inq = []) : step s = .next { s with schedule := sched } :=
  (step_cons hsched).trans (txTurn_await_nil (s := { s with schedule := sched }) ha hq)

/-- Settles O21: PING's arm in `TX_IDLE`; `TX_AWAIT` is not `TX_IDLE`, and the wait is `step_await_nil`. -/
theorem pingCommandEmits : Obligations.PingCommandEmits :=
  ⟨rfl, fun _ hi => exec_cmdPing_of_idle hi, fun _ ha => exec_command_of_busy (tr := [0x00#8]) rfl (by rw [ha]; decide),
    fun _ _ hsched ha hq => step_await_nil hsched ha hq⟩

/-- Settles O22: RESET's arm in and outside `TX_IDLE`. -/
theorem resetCommandEmits : Obligations.ResetCommandEmits :=
  ⟨rfl, fun _ hi => exec_cmdReset_of_idle hi, fun _ hb => exec_command_of_busy (tr := [0x04#8]) rfl hb⟩

/-! ### SEND (R123 to R125) -/

/-- SEND's three outcomes in `TX_IDLE`, in the order of R216. -/
theorem exec_cmdSend_of_idle {s : State} (m : List Byte) (hi : s.txState = .idle) :
    exec (.cmdSend m) s = .next (if m.length = 0 then s.txRecord .empty
      else if m.length > msgMax ∨ s.params.p < 4 then s.txRecord .overflow else s.loadMessage m) := by
  simp only [exec, execCmdSend, whenTxIdle_of_idle hi]

theorem exec_cmdSend_loads {s : State} {m : List Byte} (hi : s.txState = .idle) (h0 : 1 ≤ m.length) (hm : m.length ≤ msgMax)
    (hp : 4 ≤ s.params.p) : exec (.cmdSend m) s = .next (s.loadMessage m) := by
  rw [exec_cmdSend_of_idle m hi, if_neg (by omega), if_neg (by omega)]

/-- Settles O19: the three outcomes of `exec_cmdSend_of_idle`, the accepted one with the laws of `loadMessage`. -/
theorem sendLoadsMessage : Obligations.SendLoadsMessage := by
  intro s m hi
  refine ⟨fun h0 => ?_, fun h0 hover => ?_, fun h0 hm hp => ?_⟩
  · rw [exec_cmdSend_of_idle m hi, if_pos h0]; rfl
  · rw [exec_cmdSend_of_idle m hi, if_neg (by omega), if_pos (show m.length > msgMax ∨ s.params.p < 4 from hover)]; rfl
  · exact ⟨s.loadMessage m, exec_cmdSend_loads hi h0 hm hp, rfl, loadMessage_txLen hm, fun _ => loadMessage_txByte_inside,
      fun _ => loadMessage_txByte_outside⟩

/-- A SEND, accepted or not, writes no byte of `TXBUF` from offset `L` on. -/
theorem exec_cmdSend_txByte_outside {s t : State} {m : List Byte} {a : Nat} (hi : s.txState = .idle)
    (h : exec (.cmdSend m) s = .next t) (ha : m.length ≤ a) : txByte t a = txByte s a := by
  rw [exec_cmdSend_of_idle m hi] at h
  cases h
  split_ifs
  · rfl
  · rfl
  · exact loadMessage_txByte_outside ha

/-! ### Frames of the commands, the responses and the messages -/

/-- A command writes the TX path's registers, `CRC_REG`, `OUTQ` and `cmdReturn` only. -/
theorem command_frame {i : Instr} {s t : State} (hport : i.port = .command) (h : exec i s = .next t) :
    t = { s with crcReg := t.crcReg, txState := t.txState, txbuf := t.txbuf, txLen := t.txLen, txPos := t.txPos,
                 txStarted := t.txStarted, txCrc := t.txCrc, txErr := t.txErr, outq := t.outq, cmdReturn := t.cmdReturn } := by
  have hd := decode_encode_of_command hport
  by_cases hi : s.txState = .idle
  · rcases command_cases hd hi h with rfl | ⟨m, -, -, -, rfl⟩ | ⟨e, rfl⟩ | rfl | ⟨w, rfl⟩ | ⟨w, rfl⟩ <;> rfl
  · rw [exec_command_of_busy hd hi] at h; cases h; rfl

/-- A command but SEND leaves `TXBUF` alone, and a command but CRC_CLEAR and CRC_FEED leaves `CRC_REG` alone. -/
theorem command_keeps_txbuf_crcReg {i : Instr} {s t : State} (hport : i.port = .command) (h : exec i s = .next t) :
    ((∀ m, i ≠ .cmdSend m) → t.txbuf = s.txbuf) ∧
    ((∀ b, i ≠ .cmdCrcFeed b) → i ≠ .cmdCrcClear → t.crcReg = s.crcReg) := by
  have hd := decode_encode_of_command hport
  by_cases hi : s.txState = .idle
  · rcases decodeCommand_ok hd with rfl | ⟨m, rfl⟩ | rfl | rfl | ⟨b, rfl⟩ | rfl
    · rw [exec_cmdPing_of_idle hi] at h; cases h; exact ⟨fun _ => rfl, fun _ _ => rfl⟩
    · rw [exec_cmdSend_of_idle m hi] at h; cases h
      exact ⟨fun hne => absurd rfl (hne m), fun _ _ => by split_ifs <;> rfl⟩
    · rw [exec_cmdReset_of_idle hi] at h; cases h; exact ⟨fun _ => rfl, fun _ _ => rfl⟩
    · rw [exec_cmdCrcClear_of_idle hi] at h; cases h; exact ⟨fun _ => rfl, fun _ hne => absurd rfl hne⟩
    · rw [exec_cmdCrcFeed_of_idle b hi] at h; cases h; exact ⟨fun _ => rfl, fun hne => absurd rfl (hne b)⟩
    · rw [exec_cmdCrcRead_of_idle hi] at h; cases h; exact ⟨fun _ => rfl, fun _ _ => rfl⟩
  · rw [exec_command_of_busy hd hi] at h; cases h; exact ⟨fun _ => rfl, fun _ _ => rfl⟩

/-- Settles O49: the record by `command_frame`; the buffers' bytes follow, except `TXBUF` under SEND, which has a lemma of its own. -/
theorem commandFrame : Obligations.CommandFrame := by
  intro i s t hport h
  have hframe := command_frame hport h
  have hresets : t.resets = s.resets := by rw [hframe]
  have hrxbuf : t.rxbuf = s.rxbuf := by rw [hframe]
  obtain ⟨htxbuf, hcrc⟩ := command_keeps_txbuf_crcReg hport h
  refine ⟨hframe, congrFun (rxByte_congr hrxbuf hresets), fun m e a ha => ?_,
    fun hne => congrFun (txByte_congr (htxbuf hne) hresets), hcrc⟩
  subst e
  by_cases hi : s.txState = .idle
  · exact exec_cmdSend_txByte_outside hi h ha
  · rw [commandsHaveNoEffectWhileBusy _ _ hport hi] at h; cases h; rfl

/-- A response writes `TX_STATUS`, `TX_STATUS_VALID`, `TX_ERR` and `TX_STATE` only, and nothing outside `TX_AWAIT`. -/
theorem response_frame {i : Instr} {s t : State} (hport : i.port = .inLink) (h : exec i s = .next t) :
    t = { s with txStatus := t.txStatus, txStatusValid := t.txStatusValid, txErr := t.txErr, txState := t.txState } := by
  cases i with
  | resp byte0 status ignored => rw [exec, execResp] at h; rcases whenTxAwait_next h with ⟨-, rfl⟩ | ⟨-, rfl⟩ <;> rfl
  | respShort bytes => rw [exec, execRespShort] at h; rcases whenTxAwait_next h with ⟨-, rfl⟩ | ⟨-, rfl⟩ <;> rfl
  | _ => cases hport

/-- A message by itself is its classification (R192). -/
theorem exec_of_message {i : Instr} (hport : i.port = .message) (s : State) : ∃ op len, exec i s = .next (classify op len s) := by
  cases i with
  | msgDfu | msgWritePage | msgActivateLayout | msgDeactivateLayout | msgUnknown => exact ⟨_, _, rfl⟩
  | _ => cases hport

/-- A classification writes `RX_STATE`, `RX_LAST` and `RX_BUSY_HIT` only. -/
theorem classify_frame (op : Byte) (len : Nat) (s : State) :
    classify op len s = { s with rxState := (classify op len s).rxState, rxLast := (classify op len s).rxLast,
                                 rxBusyHit := (classify op len s).rxBusyHit } := by
  rcases classify_cases op len s with ⟨-, e⟩ | ⟨n, -, -, e⟩ | ⟨-, e⟩ <;> rw [e] <;> rfl

/-- Settles O50: each record by its frame lemma, and neither names a buffer. -/
theorem responseAndMessageFrame : Obligations.ResponseAndMessageFrame := by
  refine ⟨fun i s t hport h => ?_, fun i s t hport h => ?_⟩
  · have hframe := response_frame hport h
    refine ⟨hframe, ?_, ?_⟩
    · rw [hframe]; exact fun _ => rfl
    · rw [hframe]; exact fun _ => rfl
  · obtain ⟨op, len, he⟩ := exec_of_message hport s
    rw [he] at h; cases h
    refine ⟨classify_frame op len s, ?_, ?_⟩
    · rw [classify_frame]; exact fun _ => rfl
    · rw [classify_frame]; exact fun _ => rfl

/-! ### The response step (R130) -/

theorem exec_resp_of_await {s : State} (byte0 status : Byte) (ignored : List Byte) (ha : s.txState = .await) :
    exec (.resp byte0 status ignored) s =
      .next { s with txStatus := status, txStatusValid := true, txErr := .none, txState := .idle } := by
  rw [exec, execResp, whenTxAwait_of_await ha]; rfl

theorem exec_respShort_of_await {s : State} (bytes : List Byte) (ha : s.txState = .await) :
    exec (.respShort bytes) s = .next { s with txErr := .shortResponse, txState := .idle } := by
  rw [exec, execRespShort, whenTxAwait_of_await ha]; rfl

/-- A response of fewer than two bytes is a short one: the round trip of `respShort`, read from the bytes. -/
theorem decode_respShort {r : Packet} (h : r.length < 2) : decode .inLink r = .ok (.respShort r) :=
  Laws.RoundTrip.respShort r (decide_eq_true (Nat.le_of_lt_succ h))

/-- In `TX_AWAIT` a scheduled TX turn runs the response at the head of `INQ`. -/
theorem step_of_response {s : State} {sched : List Turn} {r : Packet} {rest : List Packet} {i : Instr}
    (hsched : s.schedule = .tx :: sched) (ha : s.txState = .await) (hq : s.inq = r :: rest) (hd : decode .inLink r = .ok i) :
    step s = exec i { s with schedule := sched, inq := rest } :=
  stepRunsDecodedInstr.2.2 s sched r rest i hsched ha hq hd

/-- Settles O25: the two arms in `TX_AWAIT`, the step that runs them, and the wait. -/
theorem responseStep : Obligations.ResponseStep :=
  ⟨fun _ byte0 status ignored ha => exec_resp_of_await byte0 status ignored ha,
    fun _ bytes ha => exec_respShort_of_await bytes ha,
    fun _ _ r0 r1 tail _ hsched ha hq => (step_of_response hsched ha hq rfl).trans (exec_resp_of_await r0 r1 tail ha),
    fun _ _ r _ hsched ha hq hr => (step_of_response hsched ha hq (decode_respShort hr)).trans (exec_respShort_of_await r ha),
    fun _ _ hsched ha hq => step_await_nil hsched ha hq⟩

/-! ### The hold (R121) -/

/-- Outside `TX_IDLE` the host's turn looks at no transaction (log 13). -/
theorem hostTurn_of_busy {s : State} (hb : s.txState ≠ .idle) : hostTurn s = .next s := if_neg hb

/-- Outside `TX_IDLE` only the TX engine and hardware reset move `TX_STATE`, and nobody takes from the host's list. -/
theorem takeTurn_keeps_hold {u : Turn} {s t : State} (hb : s.txState ≠ .idle) (h : takeTurn u s = .next t) (htx : u ≠ .tx)
    (hreset : u ≠ .hardwareReset) : t.txState = s.txState ∧ t.cmdq = s.cmdq := by
  cases u with
  | host => rw [(hostTurn_frame h).2 hb]; exact ⟨rfl, rfl⟩
  | tx => exact absurd rfl htx
  | link => cases h; rw [linkStep_frame]; exact ⟨rfl, rfl⟩
  | rx => rw [(rxTurn_frame h).1]; exact ⟨rfl, rfl⟩
  | executor r => cases h; rw [executorStep_frame]; exact ⟨rfl, rfl⟩
  | injectOut pkt => rw [(injectOut_next h).1]; exact ⟨rfl, rfl⟩
  | injectIn pkt => rw [(injectIn_next h).1]; exact ⟨rfl, rfl⟩
  | hardwareReset => exact absurd rfl hreset

/-- In `TX_SENDING` the TX engine's turn is an emission (R126, R127). -/
theorem txTurn_of_sending {s : State} (hs : s.txState = .sending) : txTurn s = .next (emitNext s) := by
  simp only [txTurn, hs]

theorem emitNext_outq (s : State) : (emitNext s).outq = s.outq ++ [if s.txStarted then contPacket s else startPacket s] := by
  rcases emitNext_cases s with ⟨hst, e⟩ | ⟨hst, e⟩
  · rw [e, hst]; rfl
  · rw [e, hst]; rfl

/-- While a message is being sent, `OUTQ` is left alone, loses its head to the RX engine, or gains the message's next packet. -/
theorem takeTurn_outq_of_sending {u : Turn} {s t : State} (hs : s.txState = .sending) (h : takeTurn u s = .next t)
    (hreset : u ≠ .hardwareReset) (hinject : ∀ pkt, u ≠ .injectOut pkt) :
    t.outq = s.outq ∨ t.outq = s.outq.tail ∨ t.outq = s.outq ++ [if s.txStarted then contPacket s else startPacket s] := by
  cases u with
  | host => rw [(hostTurn_frame h).2 (by rw [hs]; decide)]; exact .inl rfl
  | tx =>
    rw [takeTurn, txTurn_of_sending hs] at h
    cases h
    exact .inr (.inr (emitNext_outq s))
  | link => cases h; rw [linkStep_frame]; exact .inl rfl
  | rx => rw [(rxTurn_frame h).1]; exact .inr (.inl rfl)
  | executor r => cases h; rw [executorStep_frame]; exact .inl rfl
  | injectOut pkt => exact absurd rfl (hinject pkt)
  | injectIn pkt => rw [(injectIn_next h).1]; exact .inl rfl
  | hardwareReset => exact absurd rfl hreset

/-- Settles O9: the hold is the host's turn itself; the two other clauses are read off the turn the step takes. -/
theorem commandHeldUntilTxIdle : Obligations.CommandHeldUntilTxIdle := by
  refine ⟨fun s sched hsched hb => ?_, fun s t hb h htx hreset => ?_, fun s t hs h hreset hinject => ?_⟩
  · exact (step_cons hsched).trans (hostTurn_of_busy (s := { s with schedule := sched }) hb)
  · rcases step_next h with ⟨-, rfl⟩ | ⟨u, hn, hu⟩
    · exact ⟨rfl, rfl⟩
    · rw [hn] at htx hreset
      exact takeTurn_keeps_hold (s := { s with schedule := s.schedule.tail }) hb hu (ne_of_apply_ne some htx)
        (ne_of_apply_ne some hreset)
  · rcases step_next h with ⟨-, rfl⟩ | ⟨u, hn, hu⟩
    · exact .inl rfl
    · simp only [hn] at hreset hinject
      exact takeTurn_outq_of_sending (s := { s with schedule := s.schedule.tail }) hs hu (ne_of_apply_ne some hreset)
        fun pkt => ne_of_apply_ne some (hinject pkt)

end Sys2Proof.Machine
end

section
/-! Proofs for 42_tx_framer_chunker.md: the emission steps (R126, R127), the packets of a message (R128), and the run that emits them. -/

namespace Sys2Proof.Machine

/-! ### The emission steps -/

theorem txRead_eq_map (s : State) (i n : Nat) : txRead s i n = (List.range n).map fun k => txByte s (i + k) := by
  rw [txRead, bufRead_eq_map, List.range'_eq_map_range, List.map_map]; rfl

/-- In `TX_SENDING` a scheduled TX turn is an emission. -/
theorem step_of_sending {s : State} {sched : List Turn} (hsched : s.schedule = .tx :: sched) (hs : s.txState = .sending) :
    step s = .next (emitNext { s with schedule := sched }) :=
  (step_cons hsched).trans (txTurn_of_sending (s := { s with schedule := sched }) hs)

theorem emitNext_of_not_started {s : State} (h : s.txStarted = false) :
    emitNext s = { s with
      outq := s.outq ++ [startPacket s], txPos := startCount s, txStarted := true,
      txState := if startCount s = s.txLen.toNat then .idle else s.txState } := by
  rcases emitNext_cases s with ⟨-, e⟩ | ⟨hst, -⟩
  · exact e
  · rw [h] at hst; cases hst

theorem emitNext_of_started {s : State} (h : s.txStarted = true) :
    emitNext s = { s with
      outq := s.outq ++ [contPacket s], txPos := s.txPos + contCount s,
      txState := if s.txPos + contCount s = s.txLen.toNat then .idle else s.txState } := by
  rcases emitNext_cases s with ⟨hst, -⟩ | ⟨-, e⟩
  · rw [h] at hst; cases hst
  · exact e

theorem startPacket_eq_bytes (s : State) :
    startPacket s = 0x02#8 :: s.txLen :: (le16 s.txCrc ++ (List.range (startCount s)).map (txByte s)) := by
  rw [startPacket, txRead_eq_map]
  simp only [Nat.zero_add]
  rfl

theorem contPacket_eq_bytes (s : State) :
    contPacket s = 0x03#8 :: (List.range (contCount s)).map fun k => txByte s (s.txPos + k) := by
  rw [contPacket, txRead_eq_map]

/-- Settles O23: the step is the emission before `TX_STARTED`, with the packet's bytes by `startPacket_eq_bytes`. -/
theorem emitStartStep : Obligations.EmitStartStep := by
  intro s sched hsched hs hst
  refine ⟨?_, fun hp => by omega⟩
  rw [step_of_sending hsched hs, emitNext_of_not_started (s := { s with schedule := sched }) hst, startPacket_eq_bytes, hs]
  rfl

/-- Settles O24: the step is the emission after `TX_STARTED`; under the invariant there is a byte left to send and room for one. -/
theorem emitContStep : Obligations.EmitContStep := by
  intro s sched hsched hs hst
  refine ⟨?_, fun hinv => ?_⟩
  · rw [step_of_sending hsched hs, emitNext_of_started (s := { s with schedule := sched }) hst, contPacket_eq_bytes, hs]
    rfl
  · have hp : 4 ≤ s.params.p := hinv.tx.sending_size hs
    have hpos : s.txPos < s.txLen.toNat := hinv.tx.sending_pos hs
    omega

/-! ### The packets of a message (R128) -/

theorem firstCount_le_length (p : Nat) (m : List Byte) : firstCount p m ≤ m.length := Nat.min_le_left ..

theorem startFrame_length (c : Params) (m : List Byte) : (startFrame c m).length = 4 + firstCount c.p m := by
  simp only [startFrame, le16, List.length_cons, List.length_append, List.length_nil, List.length_take]
  have := firstCount_le_length c.p m
  omega

theorem contFrame_length (c : Params) (m : List Byte) (k : Nat) :
    (contFrame c m k).length = 1 + min (c.p - 1) (m.length - (firstCount c.p m + k * (c.p - 1))) := by
  rw [contFrame, List.length_cons, List.length_take, List.length_drop, Nat.add_comm]

theorem frames_length (c : Params) (m : List Byte) : (frames c m).length = 1 + contFrameCount c.p m := by
  rw [frames, List.length_cons, List.length_map, List.length_range, Nat.add_comm]

theorem frames_map_length (c : Params) (m : List Byte) :
    (frames c m).map List.length = (4 + firstCount c.p m) ::
      (List.range (contFrameCount c.p m)).map fun k => 1 + min (c.p - 1) (m.length - (firstCount c.p m + k * (c.p - 1))) := by
  rw [frames, List.map_cons, startFrame_length, List.map_map]
  exact congrArg _ (List.map_congr_left fun k _ => contFrame_length c m k)

theorem frameChunk_startFrame (c : Params) (m : List Byte) : frameChunk (startFrame c m) = m.take (firstCount c.p m) := rfl

theorem frameChunk_contFrame (c : Params) (m : List Byte) (k : Nat) :
    frameChunk (contFrame c m k) = (m.drop (firstCount c.p m + k * (c.p - 1))).take (c.p - 1) := rfl

/-- Each packet is at most `P` bytes long. -/
theorem length_le_of_mem_frames {c : Params} {m : List Byte} {pkt : Packet} (hp : 4 ≤ c.p) (h : pkt ∈ frames c m) :
    pkt.length ≤ c.p := by
  rcases List.mem_cons.1 h with rfl | h
  · have : firstCount c.p m ≤ c.p - 4 := Nat.min_le_right ..
    rw [startFrame_length]; omega
  · obtain ⟨k, -, rfl⟩ := List.mem_map.1 h
    rw [contFrame_length]; omega

/-- A Cont packet before the last is followed by another one, which begins within the message; so it is full. -/
theorem contFrame_full {c : Params} {m : List Byte} {k : Nat} (hp : 4 ≤ c.p) (hk : k + 1 < contFrameCount c.p m) :
    (contFrame c m k).length = c.p := by
  have hnext := (contFrameCount_spec c.p m hp).2 (k + 1) hk
  rw [Nat.succ_mul] at hnext
  rw [contFrame_length]; omega

/-- Every Cont packet carries a byte. -/
theorem contFrame_carries {c : Params} {m : List Byte} {k : Nat} (hp : 4 ≤ c.p) (hk : k < contFrameCount c.p m) :
    2 ≤ (contFrame c m k).length := by
  have hbegin := (contFrameCount_spec c.p m hp).2 k hk
  rw [contFrame_length]; omega

/-- The Start carries the beginning of the message, the Conts its next pieces one after another, and these reach its end. -/
theorem frames_chunks {c : Params} (m : List Byte) (hp : 4 ≤ c.p) : ((frames c m).map frameChunk).flatten = m := by
  have hreach := (contFrameCount_spec c.p m hp).1
  calc ((frames c m).map frameChunk).flatten
      = m.take (firstCount c.p m) ++
          ((List.range (contFrameCount c.p m)).map fun k => (m.drop (firstCount c.p m + k * (c.p - 1))).take (c.p - 1)).flatten := by
        rw [frames, List.map_cons, List.flatten_cons, frameChunk_startFrame, List.map_map]; rfl
    _ = m.take (firstCount c.p m) ++ m.drop (firstCount c.p m) := by
        rw [pieces_flatten, List.take_of_length_le (l := m.drop _) (by rw [List.length_drop]; omega)]
    _ = m := List.take_append_drop ..

/-- Settles O27: a lemma for each clause; the example's lengths are evaluated. -/
theorem framesCutTheMessage : Obligations.FramesCutTheMessage :=
  ⟨fun c m _ _ hp => ⟨frames_length c m, fun _ => length_le_of_mem_frames hp, startFrame_length c m, fun _ => contFrame_full hp,
    fun _ => contFrame_carries hp, frames_chunks m hp⟩, by
    rw [frames_map_length, contFrameCount, firstCount, List.length_replicate]; rfl⟩

/-! ### The run that emits them (R58, R128) -/

/-- How much of the message the Start and `j` Conts carry. -/
def carried (p : Nat) (m : List Byte) (j : Nat) : Nat := min m.length (firstCount p m + j * (p - 1))

/-- Before the last Cont part of the message is left. -/
theorem carried_of_lt {p : Nat} {m : List Byte} {j : Nat} (hp : 4 ≤ p) (hj : j < contFrameCount p m) :
    carried p m j = firstCount p m + j * (p - 1) ∧ carried p m j < m.length := by
  have := (contFrameCount_spec p m hp).2 j hj
  unfold carried; omega

/-- The last Cont ends the message. -/
theorem carried_all {p : Nat} (m : List Byte) (hp : 4 ≤ p) : carried p m (contFrameCount p m) = m.length :=
  Nat.min_eq_left (contFrameCount_spec p m hp).1

theorem carried_zero (p : Nat) (m : List Byte) : carried p m 0 = firstCount p m := by
  rw [carried, Nat.zero_mul, Nat.add_zero]
  exact Nat.min_eq_right (firstCount_le_length p m)

/-- One more Cont carries its chunk. -/
theorem carried_succ {p : Nat} {m : List Byte} {j : Nat} (hp : 4 ≤ p) (hj : j < contFrameCount p m) :
    carried p m (j + 1) = carried p m j + min (p - 1) (m.length - carried p m j) := by
  obtain ⟨hpos, hlt⟩ := carried_of_lt hp hj
  rw [hpos] at hlt ⊢
  rw [carried, Nat.succ_mul]
  omega

/-- Cutting a chunk to what is left of the message does not change it. -/
theorem take_min_left (m : List Byte) (i q : Nat) : (m.drop i).take (min q (m.length - i)) = (m.drop i).take q := by
  rw [← List.length_drop, ← List.take_take, List.take_length]

/-- `s` once SEND has been accepted and the Start packet and `j` Conts are on `OUTQ`. -/
def State.sent (s : State) (m : List Byte) (j : Nat) : State :=
  { s.loadMessage m with
    outq := s.outq ++ startFrame s.params m :: (List.range j).map (contFrame s.params m)
    txPos := carried s.params.p m j
    txStarted := true
    txState := if carried s.params.p m j = m.length then .idle else .sending }

section
variable {s : State} {m : List Byte}

/-- A read of the loaded message is a piece of it. -/
theorem txRead_of_loaded {i n : Nat} (hn : i + n ≤ m.length) : txRead (s.loadMessage m) i n = (m.drop i).take n :=
  bufRead_eq_take_drop (fun _ hk => loadMessage_txByte_inside hk) hn

/-- The Conts left to send are sent in `TX_SENDING`. -/
theorem sent_sending {j : Nat} (hp : 4 ≤ s.params.p) (hj : j < contFrameCount s.params.p m) : (s.sent m j).txState = .sending :=
  if_neg (Nat.ne_of_lt (carried_of_lt hp hj).2)

variable (hm : m.length ≤ msgMax)
include hm

theorem sent_txLen (j : Nat) : (s.sent m j).txLen.toNat = m.length := loadMessage_txLen (s := s) hm

theorem startCount_of_loaded : startCount (s.loadMessage m) = firstCount s.params.p m := by
  rw [startCount, loadMessage_txLen hm]; rfl

/-- The Start packet the engine emits is R128's. -/
theorem startPacket_of_loaded : startPacket (s.loadMessage m) = startFrame s.params m := by
  have hn := firstCount_le_length s.params.p m
  rw [startPacket, startCount_of_loaded hm, txRead_of_loaded (by omega)]
  rfl

theorem emitNext_loadMessage : emitNext (s.loadMessage m) = s.sent m 0 := by
  rw [emitNext_of_not_started rfl, startPacket_of_loaded hm, startCount_of_loaded hm, loadMessage_txLen hm, ← carried_zero]
  rfl

theorem contCount_of_sent (j : Nat) :
    contCount (s.sent m j) = min (s.params.p - 1) (m.length - carried s.params.p m j) := by
  rw [contCount, sent_txLen hm]; rfl

variable (hp : 4 ≤ s.params.p) {j : Nat} (hj : j < contFrameCount s.params.p m)
include hp hj

/-- The Cont packet the engine emits after `j` others is R128's number `j`. -/
theorem contPacket_of_sent : contPacket (s.sent m j) = contFrame s.params m j := by
  obtain ⟨hpos, hlt⟩ := carried_of_lt hp hj
  rw [contPacket, contCount_of_sent hm, contFrame, ← hpos]
  congr 1
  calc txRead (s.loadMessage m) (carried s.params.p m j) (min (s.params.p - 1) (m.length - carried s.params.p m j))
      = (m.drop (carried s.params.p m j)).take (min (s.params.p - 1) (m.length - carried s.params.p m j)) :=
        txRead_of_loaded (by omega)
    _ = (m.drop (carried s.params.p m j)).take (s.params.p - 1) := take_min_left ..

theorem emitNext_sent : emitNext (s.sent m j) = s.sent m (j + 1) := by
  have hpos : (s.sent m j).txPos + contCount (s.sent m j) = carried s.params.p m (j + 1) := by
    rw [contCount_of_sent hm, carried_succ hp hj]; rfl
  have houtq : (s.sent m j).outq ++ [contFrame s.params m j] = (s.sent m (j + 1)).outq := by
    simp only [State.sent, List.range_succ, List.map_append, List.append_assoc, List.cons_append]
    rfl
  rw [emitNext_of_started rfl, contPacket_of_sent hm hp hj, hpos, houtq, sent_txLen hm, sent_sending hp hj]
  rfl

end

/-- The first TX turn after SEND emits the Start packet. -/
theorem step_loadMessage {s : State} {m : List Byte} {turns : List Turn} (hm : m.length ≤ msgMax)
    (hsched : s.schedule = .tx :: turns) : step (s.loadMessage m) = .next (State.sent { s with schedule := turns } m 0) :=
  calc step (s.loadMessage m)
      = .next (emitNext (State.loadMessage { s with schedule := turns } m)) := step_of_sending (s := s.loadMessage m) hsched rfl
    _ = .next (State.sent { s with schedule := turns } m 0) := congrArg _ (emitNext_loadMessage hm)

/-- Each later one emits the next Cont packet. -/
theorem step_sent {s : State} {m : List Byte} {j : Nat} {turns : List Turn} (hm : m.length ≤ msgMax) (hp : 4 ≤ s.params.p)
    (hj : j < contFrameCount s.params.p m) (hsched : s.schedule = .tx :: turns) :
    step (s.sent m j) = .next (State.sent { s with schedule := turns } m (j + 1)) :=
  calc step (s.sent m j)
      = .next (emitNext (State.sent { s with schedule := turns } m j)) :=
        step_of_sending (s := s.sent m j) hsched (sent_sending hp hj)
    _ = .next (State.sent { s with schedule := turns } m (j + 1)) :=
        congrArg _ (emitNext_sent (s := { s with schedule := turns }) hm hp hj)

/-- From any point of the emission, `k` turns emit `k` Conts. -/
theorem run_sent {s : State} {m : List Byte} {j k : Nat} {turns : List Turn} (hm : m.length ≤ msgMax) (hp : 4 ≤ s.params.p)
    (hk : j + k ≤ contFrameCount s.params.p m) (hsched : s.schedule = List.replicate k .tx ++ turns) :
    core.run k (s.sent m j) = .next (State.sent { s with schedule := turns } m (j + k)) := by
  induction k generalizing s j with
  | zero =>
    obtain rfl : s.schedule = turns := hsched
    rfl
  | succ k ih =>
    have hk' : j + 1 + k ≤ contFrameCount s.params.p m := by omega
    rw [run_succ k (step_sent hm hp (by omega) hsched), show j + (k + 1) = j + 1 + k by omega]
    exact ih (s := { s with schedule := List.replicate k .tx ++ turns }) hp hk' rfl

/-- Settles O26: SEND loads the message, the first TX turn emits the Start, and the others emit the Conts. -/
theorem sendEmitsFrames : Obligations.SendEmitsFrames := by
  intro s m rest sched hi h0 hm hp hq hsched
  generalize hn : contFrameCount s.params.p m = n at hsched
  have hload : step s = .next (State.loadMessage { s with cmdq := rest, schedule := List.replicate (1 + n) .tx ++ sched } m) :=
    (step_of_command hsched hi hq rfl).trans (exec_cmdSend_loads hi h0 hm hp)
  have hstart := step_loadMessage (s := { s with cmdq := rest, schedule := List.replicate (1 + n) .tx ++ sched })
    (turns := List.replicate n .tx ++ sched) hm (by rw [Nat.add_comm]; rfl)
  have hconts := run_sent (s := { s with cmdq := rest, schedule := List.replicate n .tx ++ sched }) (j := 0) hm hp
    (by rw [Nat.zero_add]; exact hn.ge) rfl
  rw [Nat.zero_add] at hconts
  refine ⟨State.sent { s with cmdq := rest, schedule := sched } m n, ?_, ?_, sent_txLen hm n⟩
  · rw [show 2 + n = n + 1 + 1 by omega, run_succ _ hload, run_succ _ hstart]
    exact hconts
  · simp only [State.sent, ← hn, carried_all m hp, if_true, hi]
    rfl

end Sys2Proof.Machine
end

section
/-! Proofs for 42_tx_framer_chunker.md: the RX engine's run over the packets of a message (R128, R155, R156, R160, R192). -/

namespace Sys2Proof.Machine

/-! ### Storing a message piece by piece (R155) -/

/-- Two writes end to end are one write. -/
theorem bufWrite_append (buf : Buffer) (i : Nat) (xs ys : List Byte) :
    bufWrite buf i (xs ++ ys) = bufWrite (bufWrite buf i xs) (i + xs.length) ys := by
  induction xs generalizing buf i with
  | nil => rfl
  | cons x xs ih =>
    rw [List.cons_append, bufWrite, ih, bufWrite, List.length_cons, Nat.add_right_comm, Nat.add_assoc]

/-- A chunk within the announced length is stored whole. -/
theorem appendChunk_of_fits {s : State} {chunk : List Byte} (h : s.rxCount + chunk.length ≤ s.rxTotal.toNat) :
    s.appendChunk chunk =
      { s with rxbuf := bufWrite s.rxbuf s.rxCount chunk, rxCount := s.rxCount + chunk.length } := by
  have hstore : storeCount s chunk = chunk.length := Nat.min_eq_left (by omega)
  rw [State.appendChunk, hstore, List.take_length]

/-- `s` with the Start and the first `j` Conts of a message stored, before the check that the message is whole. -/
def State.received (s : State) (m : List Byte) (j : Nat) : State :=
  { s with
    rxState := .receiving
    rxTotal := BitVec.ofNat 8 m.length
    rxCrcExp := crc16 s.params.crc m
    rxCount := carried s.params.p m j
    rxbuf := bufWrite s.rxbuf 0 (m.take (carried s.params.p m j)) }

section
variable {s : State} {m : List Byte} (hm : m.length ≤ msgMax)
include hm

theorem ofNat_length_toNat : (BitVec.ofNat 8 m.length).toNat = m.length := by
  simp only [msgMax] at hm
  rw [BitVec.toNat_ofNat]
  omega

theorem received_rxTotal (j : Nat) : (s.received m j).rxTotal.toNat = m.length := ofNat_length_toNat hm

/-- The Start packet's chunk is stored from offset 0. -/
theorem acceptStart_eq_received :
    acceptStart (BitVec.ofNat 8 m.length) (crc16 s.params.crc m) (m.take (firstCount s.params.p m)) s = s.received m 0 := by
  have hfirst := firstCount_le_length s.params.p m
  have hlen : (m.take (firstCount s.params.p m)).length = firstCount s.params.p m := by
    rw [List.length_take, Nat.min_eq_left hfirst]
  rw [acceptStart, appendChunk_of_fits, hlen, State.beginMessage_rxCount, Nat.zero_add, State.received, carried_zero]
  · rfl
  · rw [hlen, State.beginMessage_rxCount, State.beginMessage_rxTotal, ofNat_length_toNat hm]
    omega

/-- Each Cont's chunk is stored where the one before it ended. -/
theorem appendChunk_eq_received (hp : 4 ≤ s.params.p) {j : Nat} (hj : j < contFrameCount s.params.p m) :
    (s.received m j).appendChunk ((m.drop (carried s.params.p m j)).take (s.params.p - 1)) = s.received m (j + 1) := by
  have hle : carried s.params.p m j ≤ m.length := Nat.min_le_left ..
  have hlen : ((m.drop (carried s.params.p m j)).take (s.params.p - 1)).length =
      min (s.params.p - 1) (m.length - carried s.params.p m j) := by
    rw [List.length_take, List.length_drop]
  have hcount : (s.received m j).rxCount + ((m.drop (carried s.params.p m j)).take (s.params.p - 1)).length =
      carried s.params.p m (j + 1) := by
    rw [hlen, carried_succ hp hj]; rfl
  have hbytes : m.take (carried s.params.p m (j + 1)) =
      m.take (carried s.params.p m j) ++ (m.drop (carried s.params.p m j)).take (s.params.p - 1) := by
    rw [carried_succ hp hj, List.take_add, take_min_left]
  have hbuf : bufWrite (s.received m j).rxbuf (s.received m j).rxCount
      ((m.drop (carried s.params.p m j)).take (s.params.p - 1)) = (s.received m (j + 1)).rxbuf := by
    simp only [State.received]
    rw [hbytes, bufWrite_append, List.length_take, Nat.min_eq_left hle, Nat.zero_add]
  have hfits : carried s.params.p m (j + 1) ≤ m.length := Nat.min_le_left ..
  rw [appendChunk_of_fits (by rw [hcount, received_rxTotal hm]; exact hfits), hcount, hbuf]
  rfl

/-- Once every Cont is stored, `RXBUF[0:RX_TOTAL]` is the message. -/
theorem received_rxMessage (hp : 4 ≤ s.params.p) : rxMessage (s.received m (contFrameCount s.params.p m)) = m := by
  rw [rxMessage, rxRead, received_rxTotal hm]
  refine bufRead_eq_list m fun k hk => ?_
  simp only [rxByte, State.received, carried_all m hp, List.take_length]
  rw [bufLookup_write_inside hk, Option.getD_some]

end

/-! ### The packets taken (R153, R156) -/

theorem decode_startFrame (c : Params) (m : List Byte) :
    decode .outLink (startFrame c m) = .ok (.pktStart (BitVec.ofNat 8 m.length) (crc16 c.crc m) (m.take (firstCount c.p m))) :=
  Laws.RoundTrip.pktStart _ _ _ rfl

theorem exec_pktStart_of_legal {s : State} {totalLen : Byte} (crc : Word) (chunk : List Byte) (hx : s.rxState ≠ .executing)
    (hlen : totalLen ≠ 0x00#8) :
    exec (.pktStart totalLen crc chunk) s = completeIfWhole (acceptStart totalLen crc chunk s) := by
  rw [exec, execPktStart, if_neg hx, if_neg hlen]

theorem exec_pktCont_of_receiving {s : State} (chunk : List Byte) (hr : s.rxState = .receiving) :
    exec (.pktCont chunk) s = completeIfWhole (s.appendChunk chunk) := by
  simp only [exec, execPktCont, hr]

/-- A scheduled RX turn runs the packet at the head of `OUTQ`. -/
theorem step_of_packet {s : State} {turns : List Turn} {pkt : Packet} {rest : List Packet} {i : Instr}
    (hsched : s.schedule = .rx :: turns) (hq : s.outq = pkt :: rest) (hd : decode .outLink pkt = .ok i) :
    step s = exec i { s with schedule := turns, outq := rest } :=
  stepRunsDecodedInstr.2.1 s turns pkt rest i hsched hq hd

/-- The check of the whole message always answers. -/
theorem completeIfWhole_next (s : State) : ∃ u : State, completeIfWhole s = .next u := ⟨_, completeIfWhole_eq s⟩

/-- The RX turn that takes the message's Start packet. -/
theorem step_startFrame {s : State} {m : List Byte} {turns : List Turn} {rest : List Packet} (h0 : 1 ≤ m.length)
    (hm : m.length ≤ msgMax) (hx : s.rxState ≠ .executing) (hsched : s.schedule = .rx :: turns)
    (hq : s.outq = startFrame s.params m :: rest) :
    ∃ u : State, step s = .next u ∧ completeIfWhole (State.received { s with schedule := turns, outq := rest } m 0) = .next u := by
  have hlen : BitVec.ofNat 8 m.length ≠ 0x00#8 := fun e => by
    have := ofNat_length_toNat hm
    rw [e, BitVec.toNat_zero] at this
    omega
  obtain ⟨u, hu⟩ := completeIfWhole_next (State.received { s with schedule := turns, outq := rest } m 0)
  refine ⟨u, ?_, hu⟩
  rw [step_of_packet hsched hq (decode_startFrame s.params m), ← hu, ← acceptStart_eq_received hm]
  exact exec_pktStart_of_legal (s := { s with schedule := turns, outq := rest }) _ _ hx hlen

/-- The RX turn that takes its Cont packet number `j`. -/
theorem step_contFrame {s : State} {m : List Byte} {j : Nat} {turns : List Turn} {rest : List Packet} (hm : m.length ≤ msgMax)
    (hp : 4 ≤ s.params.p) (hj : j < contFrameCount s.params.p m) (hsched : s.schedule = .rx :: turns)
    (hq : s.outq = contFrame s.params m j :: rest) :
    ∃ u : State, step (s.received m j) = .next u ∧
      completeIfWhole (State.received { s with schedule := turns, outq := rest } m (j + 1)) = .next u := by
  rw [contFrame, ← (carried_of_lt hp hj).1] at hq
  obtain ⟨u, hu⟩ := completeIfWhole_next (State.received { s with schedule := turns, outq := rest } m (j + 1))
  refine ⟨u, ?_, hu⟩
  rw [step_of_packet (s := s.received m j) hsched hq rfl, ← hu,
    ← appendChunk_eq_received (s := { s with schedule := turns, outq := rest }) hm hp hj]
  exact exec_pktCont_of_receiving (s := State.received { s with schedule := turns, outq := rest } m j) _ rfl

/-! ### The run over the packets -/

/-- Before the last Cont the message is not whole, and the check changes nothing. -/
theorem completeIfWhole_received {s : State} {m : List Byte} {j : Nat} (hm : m.length ≤ msgMax) (hp : 4 ≤ s.params.p)
    (hj : j < contFrameCount s.params.p m) : completeIfWhole (s.received m j) = .next (s.received m j) :=
  if_neg (by rw [received_rxTotal hm]; exact Nat.ne_of_lt (carried_of_lt hp hj).2)

/-- From any point, the Conts that are left end in the check of the whole message. -/
theorem run_received {s u : State} {m : List Byte} {j k : Nat} {turns : List Turn} {rest : List Packet} (hm : m.length ≤ msgMax)
    (hp : 4 ≤ s.params.p) (hk : j + k = contFrameCount s.params.p m) (hsched : s.schedule = List.replicate k .rx ++ turns)
    (hq : s.outq = (List.range' j k).map (contFrame s.params m) ++ rest) (hu : completeIfWhole (s.received m j) = .next u) :
    core.run k u = completeIfWhole (State.received { s with schedule := turns, outq := rest } m (contFrameCount s.params.p m)) := by
  induction k generalizing s u j with
  | zero =>
    obtain rfl : s.schedule = turns := hsched
    obtain rfl : s.outq = rest := hq
    exact hk ▸ hu.symm
  | succ k ih =>
    have hj : j < contFrameCount s.params.p m := by omega
    obtain rfl : s.received m j = u := Host.Outcome.next.inj ((completeIfWhole_received hm hp hj).symm.trans hu)
    rw [List.replicate_succ, List.cons_append] at hsched
    rw [List.range'_succ, List.map_cons, List.cons_append] at hq
    obtain ⟨v, hstep, hv⟩ := step_contFrame hm hp hj hsched hq
    have hk' : j + 1 + k = contFrameCount s.params.p m := by omega
    rw [run_succ k hstep]
    exact (ih (by exact hp) (by exact hk') (by rfl) (by rfl) hv :)

/-- The RX turns over all of a message's packets end in the check of the whole message. -/
theorem run_frames {s : State} {m : List Byte} {turns : List Turn} {rest : List Packet} (h0 : 1 ≤ m.length)
    (hm : m.length ≤ msgMax) (hp : 4 ≤ s.params.p) (hx : s.rxState ≠ .executing)
    (hsched : s.schedule = List.replicate (1 + contFrameCount s.params.p m) .rx ++ turns)
    (hq : s.outq = frames s.params m ++ rest) :
    core.run (1 + contFrameCount s.params.p m) s =
      completeIfWhole (State.received { s with schedule := turns, outq := rest } m (contFrameCount s.params.p m)) := by
  rw [Nat.add_comm, List.replicate_succ, List.cons_append] at hsched
  rw [frames, List.range_eq_range', List.cons_append] at hq
  obtain ⟨v, hstep, hv⟩ := step_startFrame h0 hm hx hsched hq
  rw [Nat.add_comm, run_succ _ hstep]
  exact (run_received hm (by exact hp) (by exact Nat.zero_add _) (by rfl) (by rfl) hv :)

/-! ### The outcome (R160, R161, R192) -/

/-- What a whole message leaves: CrcError, or its classification. -/
def State.judged (s : State) (op : Byte) (payload : List Byte) : State :=
  if crc16 s.params.rxCrc (op :: payload) ≠ s.rxCrcExp then s.rxRecord stCrcError else classify op (payload.length + 1) s

section
variable {s : State} {op : Byte} {payload : List Byte}

theorem judged_of_mismatch (h : crc16 s.params.rxCrc (op :: payload) ≠ s.rxCrcExp) : s.judged op payload = s.rxRecord stCrcError :=
  if_pos h

theorem judged_of_match (h : crc16 s.params.rxCrc (op :: payload) = s.rxCrcExp) :
    s.judged op payload = classify op (payload.length + 1) s :=
  if_neg (not_not.2 h)

/-- It writes `RX_STATE`, `RX_LAST` and `RX_BUSY_HIT` only. -/
theorem judged_frame (s : State) (op : Byte) (payload : List Byte) :
    s.judged op payload = { s with rxState := (s.judged op payload).rxState, rxLast := (s.judged op payload).rxLast,
                                   rxBusyHit := (s.judged op payload).rxBusyHit } := by
  by_cases h : crc16 s.params.rxCrc (op :: payload) = s.rxCrcExp
  · rw [judged_of_match h]; exact classify_frame ..
  · rw [judged_of_mismatch h]; rfl

theorem classify_of_unlisted (len : Nat) (h : tableLength s.params.msgTable op = none) :
    classify op len s = s.rxRecord stWrongMessage := by
  simp only [classify, h]

theorem classify_of_other_length {len n : Nat} (h : tableLength s.params.msgTable op = some n) (hne : len ≠ n) :
    classify op len s = s.rxRecord stMessageError := by
  simp only [classify, h, if_pos hne]

theorem classify_of_legal {len : Nat} (h : tableLength s.params.msgTable op = some len) : classify op len s = s.startExecuting := by
  simp only [classify, h, ne_eq, not_true_eq_false, if_false]

/-- The message is no longer being received, so 3 is not reported. -/
theorem reportedStatus_judged (s : State) (op : Byte) (payload : List Byte) : reportedStatus (s.judged op payload) ≠ 0x03#8 := by
  by_cases h : crc16 s.params.rxCrc (op :: payload) = s.rxCrcExp
  · rw [judged_of_match h]
    rcases classify_cases op (payload.length + 1) s with ⟨-, e⟩ | ⟨n, -, -, e⟩ | ⟨-, e⟩
    · rw [e]; exact (by decide : stWrongMessage ≠ 0x03#8)
    · rw [e]; exact (by decide : stMessageError ≠ 0x03#8)
    · rw [e]; exact (by decide : stExecuting ≠ 0x03#8)
  · rw [judged_of_mismatch h]; exact (by decide : stCrcError ≠ 0x03#8)

theorem executorPort_startExecuting (s : State) : executorPort s.startExecuting = some (rxMessage s) := rfl

end

/-- Settles O39: the run ends in the check of the whole message (`run_frames`), whose outcomes are those of `State.judged`. -/
theorem reassemblyRebuildsMessage : Obligations.ReassemblyRebuildsMessage := by
  intro s op payload rest sched hx hm hp hq hsched
  obtain ⟨r, hr⟩ : ∃ r : State, r = State.received { s with schedule := sched, outq := rest } (op :: payload)
    (contFrameCount s.params.p (op :: payload)) := ⟨_, rfl⟩
  have hcount : r.rxCount = payload.length + 1 := by rw [hr]; exact carried_all (op :: payload) hp
  have htotal : r.rxTotal.toNat = payload.length + 1 := by rw [hr]; exact received_rxTotal (m := op :: payload) hm _
  have hmsg : rxMessage r = op :: payload := by
    rw [hr]; exact received_rxMessage (s := { s with schedule := sched, outq := rest }) (m := op :: payload) hm hp
  have hwhole : completeIfWhole r = .next (r.judged op payload) :=
    completeIfWhole_of_message (hcount.trans htotal.symm) hmsg
  have hrun : core.run (1 + contFrameCount s.params.p (op :: payload)) s = .next (r.judged op payload) := by
    rw [run_frames (m := op :: payload) (Nat.succ_pos _) hm hp hx hsched hq, ← hr]
    exact hwhole
  have hparams : r.params = s.params := by rw [hr]; rfl
  have hcrc : r.rxCrcExp = crc16 s.params.crc (op :: payload) := by rw [hr]; rfl
  have hlast : r.rxLast = s.rxLast := by rw [hr]; rfl
  have hbusy : r.rxBusyHit = s.rxBusyHit := by rw [hr]; rfl
  have hmatch (heq : crc16 s.params.rxCrc (op :: payload) = crc16 s.params.crc (op :: payload)) :
      r.judged op payload = classify op (payload.length + 1) r := judged_of_match (by rw [hparams, hcrc]; exact heq)
  refine ⟨r.judged op payload, hrun, ?_, ?_, ?_, fun hne => ?_, fun heq => ⟨fun ht => ?_, fun n ht hn => ?_, fun ht => ?_⟩,
    reportedStatus_judged r op payload⟩
  · rw [judged_frame, ← hcount, hr]; rfl
  · rw [judged_frame]; exact htotal
  · rw [judged_frame]; exact hmsg
  · rw [judged_of_mismatch (by rw [hparams, hcrc]; exact hne)]
    exact ⟨rfl, rfl, hbusy⟩
  · rw [hmatch heq, classify_of_unlisted _ (by rw [hparams]; exact ht)]
    exact ⟨rfl, rfl, hbusy⟩
  · rw [hmatch heq, classify_of_other_length (by rw [hparams]; exact ht) hn]
    exact ⟨rfl, rfl, hbusy⟩
  · rw [hmatch heq, classify_of_legal (by rw [hparams]; exact ht)]
    exact ⟨rfl, rfl, hlast, (executorPort_startExecuting r).trans (congrArg some hmsg)⟩

end Sys2Proof.Machine
end

section
/-! Proofs for 43_rx_reassembler.md: what each packet does to the RX engine, the chunk that Start and Cont store, the RX step, and
the packets the environment may add. -/

namespace Sys2Proof.Machine

/-! ### What each packet does (R151 to R159, R163) -/

section
variable {s : State}

theorem exec_pktStart_of_executing (totalLen : Byte) (crc : Word) (chunk : List Byte) (hx : s.rxState = .executing) :
    exec (.pktStart totalLen crc chunk) s = .next s.noteBusy :=
  if_pos hx

theorem exec_pktStart_of_zero (crc : Word) (chunk : List Byte) (hx : s.rxState ≠ .executing) :
    exec (.pktStart 0x00#8 crc chunk) s = .next (s.rxRecord stMessageError) :=
  if_neg hx

theorem exec_pktStartShort_of_executing (rest : List Byte) (hx : s.rxState = .executing) :
    exec (.pktStartShort rest) s = .next s.noteBusy :=
  if_pos hx

theorem exec_pktStartShort_of_not_executing (rest : List Byte) (hx : s.rxState ≠ .executing) :
    exec (.pktStartShort rest) s = .next (s.rxRecord stMessageError) :=
  if_neg hx

theorem exec_pktCont_of_executing (chunk : List Byte) (hx : s.rxState = .executing) :
    exec (.pktCont chunk) s = .next s.noteBusy := by
  simp only [exec, execPktCont, hx]

theorem exec_pktCont_of_idle (chunk : List Byte) (hi : s.rxState = .idle) :
    exec (.pktCont chunk) s = .next (s.rxRecord stUnexpectedCont) := by
  simp only [exec, execPktCont, hi]

theorem exec_pktReset_of_executing (ignored : List Byte) (hx : s.rxState = .executing) : exec (.pktReset ignored) s = .next s :=
  if_pos hx

theorem exec_pktReset_of_not_executing (ignored : List Byte) (hx : s.rxState ≠ .executing) :
    exec (.pktReset ignored) s = .next s.resetRx :=
  if_neg hx

theorem exec_pktUnassigned_of_executing (op : Byte) (payload : List Byte) (hx : s.rxState = .executing) :
    exec (.pktUnassigned op payload) s = .next s.noteBusy :=
  if_pos hx

theorem exec_pktUnassigned_of_not_executing (op : Byte) (payload : List Byte) (hx : s.rxState ≠ .executing) :
    exec (.pktUnassigned op payload) s = .next (s.rxRecord stMessageError) :=
  if_neg hx

end

theorem exec_pktEmpty (s : State) : exec .pktEmpty s = .next s := rfl

/-- Settles O33: both malformed forms record MessageError. -/
theorem malformedStartIsMessageError : Obligations.MalformedStartIsMessageError :=
  fun _ hx => ⟨fun rest => exec_pktStartShort_of_not_executing rest hx, fun crc chunk => exec_pktStart_of_zero crc chunk hx⟩

/-- Settles O37: the packet's opcode and payload are not looked at, only whether the executor holds a message. -/
theorem unassignedIsMessageError : Obligations.UnassignedIsMessageError :=
  fun _ op payload => ⟨exec_pktUnassigned_of_not_executing op payload, exec_pktUnassigned_of_executing op payload⟩

/-- Settles O36: the two cases of R159. -/
theorem resetPacketClearsRx : Obligations.ResetPacketClearsRx :=
  fun _ ignored => ⟨exec_pktReset_of_executing ignored, exec_pktReset_of_not_executing ignored⟩

/-- An RX engine that is idle already only has its outcome recorded. -/
theorem rxRecord_of_idle {s : State} (code : Byte) (hi : s.rxState = .idle) : s.rxRecord code = { s with rxLast := code } := by
  rw [State.rxRecord, ← hi]

/-- Settles O34: the outcome is recorded, and the state it leaves is the one it was in. -/
theorem contInIdleIsUnexpected : Obligations.ContInIdleIsUnexpected := fun s chunk hi =>
  calc exec (.pktCont chunk) s = .next (s.rxRecord stUnexpectedCont) := exec_pktCont_of_idle chunk hi
    _ = .next { s with rxLast := 0x01#8 } := congrArg _ (rxRecord_of_idle _ hi)

/-- R38 as a case distinction on `RX_STATE`. -/
theorem reportedStatus_eq (s : State) :
    reportedStatus s = if s.rxState = .receiving then 0x03#8 else if s.rxState = .executing then 0x04#8 else s.rxLast := by
  unfold reportedStatus
  cases s.rxState <;> rfl

/-- Settles O28: a Ping writes the response slot (`State.answerPing`) with the status of R38. -/
theorem pingPacketAnswers : Obligations.PingPacketAnswers := by
  intro s ignored
  rw [exec_pktPing, State.answerPing, reportedStatus_eq]

/-- A completion with result 0 after a discarded packet records BusyError and clears the flag (R194). -/
theorem executorStep_zero_of_busyHit {s : State} (hx : s.rxState = .executing) (hb : s.rxBusyHit = true) :
    executorStep 0x00#8 s = { s with rxState := .idle, rxLast := 0x07#8, rxBusyHit := false } := by
  have hcode : completionStatus 0x00#8 s.rxBusyHit = 0x07#8 := by rw [hb]; rfl
  rw [executorStep, if_pos hx, hcode, State.rxRecord]

/-- Settles O35: each discarded packet notes it in the flag alone, a Ping reports 4, and the completion turns the flag into 7. -/
theorem packetsDuringExecutionAreBusy : Obligations.PacketsDuringExecutionAreBusy := by
  refine ⟨fun s hx => ⟨fun n crc chunk => exec_pktStart_of_executing n crc chunk hx,
    fun rest => exec_pktStartShort_of_executing rest hx, fun chunk => exec_pktCont_of_executing chunk hx,
    fun op payload => exec_pktUnassigned_of_executing op payload hx, fun ignored => ?_⟩, fun s sched hsched hx hb => ?_⟩
  · have hstatus : reportedStatus s = 0x04#8 := by rw [reportedStatus_eq, hx]; rfl
    rw [exec_pktPing, State.answerPing, hstatus]
  · calc step s = .next (executorStep 0x00#8 { s with schedule := sched }) := step_cons hsched
      _ = _ := congrArg _ (executorStep_zero_of_busyHit (s := { s with schedule := sched }) hx hb)

/-! ### The packets the environment adds (R56, R164) -/

/-- Settles O43: the turn's own test of the packet's length, either way. -/
theorem injectionBoundedByPMax : Obligations.InjectionBoundedByPMax := by
  intro s sched pkt hsched
  have hstep : step s = injectOut pkt { s with schedule := sched } := step_cons hsched
  exact ⟨fun hfits => hstep.trans (if_pos hfits), fun hlong => hstep.trans (if_neg (Nat.not_le_of_lt hlong))⟩

/-! ### Storing a chunk (R155) -/

/-- A chunk that reaches the announced length is stored up to it. -/
theorem storeCount_of_reaches {s : State} {chunk : List Byte} (h : s.rxTotal.toNat ≤ s.rxCount + chunk.length) :
    storeCount s chunk = s.rxTotal.toNat - s.rxCount :=
  Nat.min_eq_right (by omega)

theorem storeCount_of_fits {s : State} {chunk : List Byte} (h : s.rxCount + chunk.length ≤ s.rxTotal.toNat) :
    storeCount s chunk = chunk.length :=
  Nat.min_eq_left (by omega)

section
variable {s : State} {totalLen : Byte} {crc : Word} {chunk : List Byte}

/-- An accepted Start begins from offset 0, so it stores as much of its chunk as `totalLen` announces. -/
theorem storeCount_beginMessage : storeCount (s.beginMessage totalLen crc) chunk = min chunk.length totalLen.toNat := rfl

/-- The registers an accepted Start writes (R153). -/
theorem acceptStart_eq :
    acceptStart totalLen crc chunk s =
      { s with rxbuf := (acceptStart totalLen crc chunk s).rxbuf, rxTotal := totalLen, rxCrcExp := crc,
               rxCount := min chunk.length totalLen.toNat, rxState := .receiving } := by
  have hcount : min chunk.length totalLen.toNat = 0 + storeCount (s.beginMessage totalLen crc) chunk := by
    rw [storeCount_beginMessage, Nat.zero_add]
  rw [hcount]
  rfl

theorem acceptStart_rxByte : rxByte (acceptStart totalLen crc chunk s) = rxByte ((s.beginMessage totalLen crc).appendChunk chunk) :=
  rxByte_congr rfl rfl

theorem acceptStart_rxByte_inside {k : Nat} (hk : k < chunk.length) (hn : k < totalLen.toNat) :
    rxByte (acceptStart totalLen crc chunk s) k = chunk[k] := by
  have hstored : k < storeCount (s.beginMessage totalLen crc) chunk := lt_min hk hn
  have hbyte := appendChunk_rxByte_inside hstored
  rwa [State.beginMessage_rxCount, Nat.zero_add, ← acceptStart_rxByte] at hbyte

theorem acceptStart_rxByte_outside {a : Nat} (ha : storeCount (s.beginMessage totalLen crc) chunk ≤ a) :
    rxByte (acceptStart totalLen crc chunk s) a = rxByte s a := by
  rw [acceptStart_rxByte, appendChunk_rxByte_outside (.inr (by rwa [State.beginMessage_rxCount, Nat.zero_add]))]
  exact congrFun (rxByte_congr rfl rfl) a

/-- A chunk as long as the message holds all of it. -/
theorem acceptStart_rxMessage (h : totalLen.toNat ≤ chunk.length) :
    rxMessage (acceptStart totalLen crc chunk s) = chunk.take totalLen.toNat := by
  have hlen : (chunk.take totalLen.toNat).length = totalLen.toNat := List.length_take_of_le h
  calc rxMessage (acceptStart totalLen crc chunk s)
      = bufRead (rxByte (acceptStart totalLen crc chunk s)) 0 (chunk.take totalLen.toNat).length := by rw [hlen]; rfl
    _ = chunk.take totalLen.toNat := bufRead_eq_list _ fun k hk => by
        rw [Nat.zero_add, List.getElem_take]
        rw [hlen] at hk
        exact acceptStart_rxByte_inside (hk.trans_le h) hk

end

/-! ### The last line of Start and Cont (R160, R161) -/

theorem completeIfWhole_of_short {s : State} (h : s.rxCount < s.rxTotal.toNat) : completeIfWhole s = .next s :=
  if_neg (Nat.ne_of_lt h)

theorem completeIfWhole_of_mismatch {s : State} (hw : s.rxCount = s.rxTotal.toNat)
    (hc : crc16 s.params.rxCrc (rxMessage s) ≠ s.rxCrcExp) : completeIfWhole s = .next (s.rxRecord stCrcError) := by
  rw [completeIfWhole, if_pos hw, complete, if_pos hc]

/-- A whole message whose CRC agrees decodes, and its meaning is run (R160). -/
theorem completeIfWhole_of_match {s : State} (h0 : s.rxTotal ≠ 0x00#8) (hw : s.rxCount = s.rxTotal.toNat)
    (hc : crc16 s.params.rxCrc (rxMessage s) = s.rxCrcExp) :
    ∃ i, decode .message (rxMessage s) = .ok i ∧ completeIfWhole s = exec i s := by
  obtain ⟨payload, hm, hl⟩ := rxMessage_cons h0
  have hd : decodeMessage (rxMessage s) = .ok (messageOf (rxByte s 0) payload) := by
    rw [hm, decodeMessage, if_pos (hl ▸ byte_le s.rxTotal)]
  refine ⟨(messageOf (rxByte s 0) payload).toInstr, by rw [decode, hd]; rfl, ?_⟩
  rw [completeIfWhole, if_pos hw, complete, if_neg (not_not.2 hc), hd, exec_toInstr]

/-- Settles O29: `acceptStart` stores the chunk, and `completeIfWhole` either leaves the message waiting or ends it. -/
theorem startAccepted : Obligations.StartAccepted := by
  refine ⟨fun s n crc chunk hx h0 hlt => ?_, fun s n crc chunk hx h0 hle => ?_⟩
  · have hcount : min chunk.length n.toNat = chunk.length := Nat.min_eq_left hlt.le
    have heq := acceptStart_eq (s := s) (totalLen := n) (crc := crc) (chunk := chunk)
    rw [hcount] at heq
    refine ⟨acceptStart n crc chunk s, ?_, heq, fun k hk => acceptStart_rxByte_inside hk (hk.trans hlt),
      fun a ha => acceptStart_rxByte_outside (by rwa [storeCount_beginMessage, hcount])⟩
    rw [exec_pktStart_of_legal crc chunk hx h0, completeIfWhole_of_short]
    rw [heq]; exact hlt
  · have hcount : min chunk.length n.toNat = n.toNat := Nat.min_eq_right hle
    have heq := acceptStart_eq (s := s) (totalLen := n) (crc := crc) (chunk := chunk)
    rw [hcount] at heq
    have hwhole : (acceptStart n crc chunk s).rxCount = (acceptStart n crc chunk s).rxTotal.toNat := by rw [heq]
    rw [exec_pktStart_of_legal crc chunk hx h0]
    exact ⟨acceptStart n crc chunk s, heq, acceptStart_rxMessage hle,
      fun a ha => acceptStart_rxByte_outside (by rwa [storeCount_beginMessage, hcount]),
      completeIfWhole_of_mismatch hwhole, completeIfWhole_of_match h0 hwhole⟩

/-- Settles O30: `appendChunk` stores the chunk, and `completeIfWhole` either leaves the message waiting or ends it. -/
theorem contReceived : Obligations.ContReceived := by
  refine ⟨fun s chunk hr hlt => ?_, fun s chunk hr hcount hle => ?_⟩
  · have hstore : storeCount s chunk = chunk.length := storeCount_of_fits hlt.le
    have hnext : s.rxCount + chunk.length = (s.appendChunk chunk).rxCount := by rw [State.appendChunk_rxCount, hstore]
    refine ⟨s.appendChunk chunk, ?_, ?_, fun k hk => appendChunk_rxByte_inside (by rwa [hstore]),
      fun a ha => appendChunk_rxByte_outside (by rwa [hstore])⟩
    · rw [exec_pktCont_of_receiving chunk hr, completeIfWhole_of_short (hnext ▸ hlt)]
    · rw [hnext]; rfl
  · have hstore : storeCount s chunk = s.rxTotal.toNat - s.rxCount := storeCount_of_reaches hle
    have hend : s.rxCount + storeCount s chunk = s.rxTotal.toNat := by omega
    have h0 : s.rxTotal ≠ 0x00#8 := fun e => by rw [e] at hcount; exact Nat.not_lt_zero _ hcount
    have hwhole : (s.appendChunk chunk).rxCount = (s.appendChunk chunk).rxTotal.toNat := hend
    rw [exec_pktCont_of_receiving chunk hr]
    refine ⟨s.appendChunk chunk, ?_, fun k hk hn => appendChunk_rxByte_inside (by omega),
      fun a ha => appendChunk_rxByte_outside (by rwa [hend]),
      completeIfWhole_of_mismatch hwhole, completeIfWhole_of_match (s := s.appendChunk chunk) h0 hwhole⟩
    rw [← hend]; rfl

/-! ### Every packet: totality and frame (R150, R165) -/

/-- The CRC check and the message's meaning write `RX_STATE`, `RX_LAST` and `RX_BUSY_HIT` only. -/
theorem completeIfWhole_frame {s t : State} (h : completeIfWhole s = .next t) :
    t = { s with rxState := t.rxState, rxLast := t.rxLast, rxBusyHit := t.rxBusyHit } := by
  rcases completeIfWhole_cases h with ⟨-, rfl⟩ | ⟨-, code, rfl, -⟩ | ⟨-, -, -, rfl⟩ <;> rfl

theorem completeIfWhole_rxByte {s t : State} (h : completeIfWhole s = .next t) : rxByte t = rxByte s := by
  rw [completeIfWhole_frame h]; exact rxByte_congr rfl rfl

/-- A packet that is neither a Cont in `RX_RECEIVING` nor an accepted Start answers a state with the `RXBUF` it found. -/
theorem exec_packet_keeps_rxbuf_or_appends {i : Instr} (hport : i.port = .outLink) (s : State) :
    (∃ t : State, exec i s = .next t ∧ t.rxbuf = s.rxbuf) ∨
    (∃ chunk, i = .pktCont chunk ∧ s.rxState = .receiving) ∨
    (∃ totalLen crc chunk, i = .pktStart totalLen crc chunk ∧ s.rxState ≠ .executing ∧ totalLen ≠ 0x00#8) := by
  cases i with
  | pktPing ignored => exact .inl ⟨_, exec_pktPing ignored s, rfl⟩
  | pktStart n crc chunk =>
    by_cases hx : s.rxState = .executing
    · exact .inl ⟨_, exec_pktStart_of_executing n crc chunk hx, rfl⟩
    · by_cases h0 : n = 0x00#8
      · subst h0; exact .inl ⟨_, exec_pktStart_of_zero crc chunk hx, rfl⟩
      · exact .inr (.inr ⟨n, crc, chunk, rfl, hx, h0⟩)
  | pktStartShort rest =>
    by_cases hx : s.rxState = .executing
    · exact .inl ⟨_, exec_pktStartShort_of_executing rest hx, rfl⟩
    · exact .inl ⟨_, exec_pktStartShort_of_not_executing rest hx, rfl⟩
  | pktCont chunk =>
    cases hs : s.rxState with
    | idle => exact .inl ⟨_, exec_pktCont_of_idle chunk hs, rfl⟩
    | receiving => exact .inr (.inl ⟨chunk, rfl, rfl⟩)
    | executing => exact .inl ⟨_, exec_pktCont_of_executing chunk hs, rfl⟩
  | pktReset ignored =>
    by_cases hx : s.rxState = .executing
    · exact .inl ⟨_, exec_pktReset_of_executing ignored hx, rfl⟩
    · exact .inl ⟨_, exec_pktReset_of_not_executing ignored hx, rfl⟩
  | pktUnassigned op payload =>
    by_cases hx : s.rxState = .executing
    · exact .inl ⟨_, exec_pktUnassigned_of_executing op payload hx, rfl⟩
    · exact .inl ⟨_, exec_pktUnassigned_of_not_executing op payload hx, rfl⟩
  | pktEmpty => exact .inl ⟨_, exec_pktEmpty s, rfl⟩
  | _ => cases hport

/-- Every packet instruction answers a next state. -/
theorem exec_packet_next {i : Instr} (hport : i.port = .outLink) (s : State) : ∃ t : State, exec i s = .next t := by
  rcases exec_packet_keeps_rxbuf_or_appends hport s with ⟨t, ht, -⟩ | ⟨chunk, rfl, hr⟩ | ⟨n, crc, chunk, rfl, hx, h0⟩
  · exact ⟨t, ht⟩
  · rw [exec_pktCont_of_receiving chunk hr]; exact completeIfWhole_next _
  · rw [exec_pktStart_of_legal crc chunk hx h0]; exact completeIfWhole_next _

/-- With `OUTQ` empty the RX engine holds. -/
theorem rxTurn_of_nil {s : State} (hq : s.outq = []) : rxTurn s = .next s := by
  simp only [rxTurn, hq]

/-- Settles O38: the turn runs the head of `OUTQ` with that packet taken (`step_of_packet`), a packet always answers a next state,
and its frame names neither queue. -/
theorem rxStepIsTotal : Obligations.RxStepIsTotal := by
  refine ⟨fun s sched pkt rest hsched hq => ?_, exec_pktEmpty, fun s sched rest hsched hq => ?_, fun s sched hsched hq => ?_⟩
  · obtain ⟨-, hport, -⟩ := decodePacket_encodedOn pkt
    obtain ⟨t, ht⟩ := exec_packet_next hport { s with schedule := sched, outq := rest }
    obtain ⟨hframe, -⟩ := packet_frame ht
    refine ⟨t, (step_of_packet hsched hq rfl).trans ht, ?_, ?_⟩
    · rw [hframe]
    · rw [hframe]
  · exact (step_of_packet hsched hq rfl).trans (exec_pktEmpty _)
  · exact (step_cons hsched).trans (rxTurn_of_nil (s := { s with schedule := sched }) hq)

/-- Every packet instruction does what some bytes on `OUTQ` do: a START_SHORT or UNASSIGNED no bytes decode to does what one with
other operands does. -/
theorem exec_packet_eq_decoded {i : Instr} (hport : i.port = .outLink) (s : State) :
    ∃ pkt, exec i s = exec (decodePacket pkt) s := by
  cases i with
  | pktPing ignored => exact ⟨0x00#8 :: ignored, rfl⟩
  | pktStart n crc chunk => exact ⟨_, congrArg (exec · s) (Except.ok.inj (Laws.RoundTrip.pktStart n crc chunk rfl)).symm⟩
  | pktStartShort rest => exact ⟨[0x02#8], rfl⟩
  | pktCont chunk => exact ⟨0x03#8 :: chunk, rfl⟩
  | pktReset ignored => exact ⟨0x04#8 :: ignored, rfl⟩
  | pktUnassigned op payload => exact ⟨[0x01#8], rfl⟩
  | pktEmpty => exact ⟨[], rfl⟩
  | _ => cases hport

/-- Settles O48: the record by `packet_frame`; the bytes of `RXBUF` by what `append` stores, and where nothing is appended by
`exec_packet_keeps_rxbuf_or_appends`. -/
theorem packetFrame : Obligations.PacketFrame := by
  intro i s t hport h
  obtain ⟨pkt, hpkt⟩ := exec_packet_eq_decoded hport s
  have hframe := (packet_frame (hpkt ▸ h)).1
  have htxbuf : t.txbuf = s.txbuf := by rw [hframe]
  have hresets : t.resets = s.resets := by rw [hframe]
  refine ⟨hframe, congrFun (txByte_congr htxbuf hresets), fun chunk hi hr a ha => ?_, fun n crc chunk hi hx h0 a ha => ?_,
    fun hcont hstart a => ?_⟩
  · subst hi
    rw [exec_pktCont_of_receiving chunk hr] at h
    rw [completeIfWhole_rxByte h, appendChunk_rxByte_outside ha]
  · subst hi
    rw [exec_pktStart_of_legal crc chunk hx h0] at h
    rw [completeIfWhole_rxByte h, acceptStart_rxByte_outside ha]
  · rcases exec_packet_keeps_rxbuf_or_appends hport s with ⟨u, hu, hbuf⟩ | ⟨chunk, hi, hr⟩ | ⟨n, crc, chunk, hi, hx, h0⟩
    · cases h.symm.trans hu
      rw [rxByte_congr hbuf hresets]
    · exact absurd hr ((hcont chunk).resolve_left (absurd hi))
    · exact absurd h0 (not_not.2 (((hstart n crc chunk).resolve_left (absurd hi)).resolve_left hx))

end Sys2Proof.Machine
end

section
/-! Proofs for 43_rx_reassembler.md: which changes of a message R160's CRC check detects. -/

namespace Sys2Proof.Machine

/-! ### A changed byte is a difference of registers -/

/-- A byte as `crc_step` adds it to the register (R100). -/
def crcEntry (v : CrcVariant) (b : Byte) : Word := (crcInput v b).setWidth 16 <<< 8

theorem crcStep_eq_entry (v : CrcVariant) (w : Word) (b : Byte) : crcStep v w b = crcShifts v.poly 8 (w ^^^ crcEntry v b) := rfl

theorem reflect8_xor (a b : Byte) : reflect8 (a ^^^ b) = reflect8 a ^^^ reflect8 b := by
  apply BitVec.eq_of_getLsbD_eq
  intro i _
  simp only [reflect8, BitVec.getLsbD_xor, BitVec.getLsbD_reverse, BitVec.getMsbD_xor]

theorem crcInput_xor (v : CrcVariant) (a b : Byte) : crcInput v (a ^^^ b) = crcInput v a ^^^ crcInput v b := by
  unfold crcInput
  split
  · exact reflect8_xor a b
  · rfl

theorem crcEntry_xor (v : CrcVariant) (a b : Byte) : crcEntry v (a ^^^ b) = crcEntry v a ^^^ crcEntry v b := by
  rw [crcEntry, crcInput_xor, BitVec.setWidth_xor, BitVec.shiftLeft_xor_distrib, crcEntry, crcEntry]

/-- Another byte does to the register what the first does to one that already holds their difference. -/
theorem crcStep_other_byte (v : CrcVariant) (w : Word) (b c : Byte) :
    crcStep v w c = crcStep v (w ^^^ crcEntry v (c ^^^ b)) b := by
  rw [crcStep_eq_entry, crcStep_eq_entry, crcEntry_xor, BitVec.xor_assoc, BitVec.xor_assoc, BitVec.xor_self, BitVec.xor_zero]

theorem crcOut_injective (v : CrcVariant) : Function.Injective (crcOut v) := by
  intro a b h
  have hout := (BitVec.xor_left_inj _).1 h
  split at hout
  · exact BitVec.reverse_reverse_eq.symm.trans ((congrArg BitVec.reverse hout).trans BitVec.reverse_reverse_eq)
  · exact hout

/-- A change of one byte is detected where its difference never dies out in the register. -/
theorem crc16_ne_of_entry {v : CrcVariant} {b c : Byte} (h : ∀ n, crcShifts v.poly n (crcEntry v (c ^^^ b)) ≠ 0x0000#16)
    (before after : List Byte) : crc16 v (before ++ b :: after) ≠ crc16 v (before ++ c :: after) := by
  intro heq
  rw [crc16, crc16, List.foldl_append, List.foldl_append] at heq
  generalize before.foldl (crcStep v) v.init = w at heq
  have hchanged : (c :: after).foldl (crcStep v) w =
      (b :: after).foldl (crcStep v) w ^^^ crcShifts v.poly (8 * (b :: after).length) (crcEntry v (c ^^^ b)) := by
    rw [List.foldl_cons, crcStep_other_byte v w b c, ← List.foldl_cons, crcFold_xor]
  have hsame := (crcOut_injective v heq).trans hchanged
  rw [← BitVec.xor_zero (x := (b :: after).foldl (crcStep v) w), BitVec.xor_assoc, BitVec.xor_right_inj, BitVec.zero_xor] at hsame
  exact h _ hsame.symm

/-! ### One flipped bit -/

theorem reflect8_bit {k : Nat} (hk : k < 8) : reflect8 (0x01#8 <<< k) = 0x01#8 <<< (7 - k) :=
  (by decide : ∀ k < 8, reflect8 (0x01#8 <<< k) = 0x01#8 <<< (7 - k)) k hk

theorem bit_high {j : Nat} (hj : j < 8) : (0x01#8 <<< j : Byte).setWidth 16 <<< 8 = 0x0001#16 <<< (j + 8) :=
  (by decide : ∀ j < 8, (0x01#8 <<< j : Byte).setWidth 16 <<< 8 = 0x0001#16 <<< (j + 8)) j hj

theorem crcInput_bit (v : CrcVariant) {k : Nat} (hk : k < 8) : ∃ j, j < 8 ∧ crcInput v (0x01#8 <<< k) = 0x01#8 <<< j := by
  unfold crcInput
  split
  · exact ⟨7 - k, by omega, reflect8_bit hk⟩
  · exact ⟨k, hk, rfl⟩

/-- A single bit of a byte enters the register as its lowest bit, some shifts on. -/
theorem crcEntry_bit (v : CrcVariant) {k : Nat} (hk : k < 8) :
    ∃ n, crcEntry v (0x01#8 <<< k) = crcShifts v.poly n 0x0001#16 := by
  obtain ⟨j, hj, hin⟩ := crcInput_bit v hk
  have hsmall : (0x0001#16).toNat * 2 ^ (j + 8) < 2 ^ 16 := by
    rw [show (0x0001#16).toNat = 1 from rfl, Nat.one_mul]
    exact Nat.pow_lt_pow_right (by decide) (by omega)
  exact ⟨j + 8, by rw [crcEntry, hin, bit_high hj, crcShifts_eq_shiftLeft _ _ hsmall]⟩

/-! ### Any change of one byte -/

/-- Where bit 0 of the polynomial is set, a bit that leaves at the top enters at the bottom, so a shift loses nothing. -/
theorem crcShift_ne_zero {poly w : Word} (hp : poly.getLsbD 0 = true) (hw : w ≠ 0x0000#16) : crcShift poly w ≠ 0x0000#16 := by
  intro h0
  have hbit {i : Nat} (hi : i < 16) : ((decide (1 ≤ i) && w.getLsbD (i - 1)) ^^ (w.getLsbD 15 && poly.getLsbD i)) = false := by
    rw [← crcShift_bit hi, h0, BitVec.getLsbD_zero]
  have htop : w.getLsbD 15 = false := by
    have hzero := hbit (i := 0) (by decide)
    rwa [hp, Bool.and_true, show decide (1 ≤ 0) = false from rfl, Bool.false_and, Bool.false_xor] at hzero
  refine hw (BitVec.eq_of_getLsbD_eq fun i hi => ?_)
  rw [BitVec.getLsbD_zero]
  rcases Nat.lt_or_ge i 15 with h15 | h15
  · have hnext := hbit (i := i + 1) (by omega)
    rwa [htop, Bool.false_and, Bool.xor_false, decide_eq_true (by omega), Bool.true_and, Nat.add_sub_cancel] at hnext
  · rw [show i = 15 by omega, htop]

theorem crcShifts_ne_zero {poly w : Word} (hp : poly.getLsbD 0 = true) (hw : w ≠ 0x0000#16) (n : Nat) :
    crcShifts poly n w ≠ 0x0000#16 := by
  induction n generalizing w with
  | zero => exact hw
  | succ n ih => exact ih (crcShift_ne_zero hp hw)

theorem crcInput_ne_zero (v : CrcVariant) {d : Byte} (h : d ≠ 0x00#8) : crcInput v d ≠ 0x00#8 := by
  unfold crcInput
  split
  · intro h0
    exact h (BitVec.reverse_reverse_eq.symm.trans ((congrArg BitVec.reverse h0).trans (by decide)))
  · exact h

theorem crcEntry_ne_zero (v : CrcVariant) {d : Byte} (h : d ≠ 0x00#8) : crcEntry v d ≠ 0x0000#16 := by
  intro h0
  apply crcInput_ne_zero v h
  have hnat := congrArg BitVec.toNat h0
  rw [crcEntry, BitVec.toNat_shiftLeft, BitVec.toNat_setWidth, Nat.shiftLeft_eq, BitVec.toNat_zero] at hnat
  exact BitVec.eq_of_toNat_eq (by rw [BitVec.toNat_zero]; omega)

/-- Settles O17: the CRC is linear, so the check sees the difference of the two bytes after some shifts. A flipped bit's difference
is a single bit, which no shifts clear (`crcShifts_one_ne_zero`); and where bit 0 of the polynomial is set no difference dies out. -/
theorem oneByteChangeIsDetected : Obligations.OneByteChangeIsDetected := by
  refine ⟨fun v before after b k hp hk => crc16_ne_of_entry (fun n => ?_) before after,
    fun v before after b c hp hne => crc16_ne_of_entry (crcShifts_ne_zero hp (crcEntry_ne_zero v ?_)) before after⟩
  · obtain ⟨m, hm⟩ := crcEntry_bit v hk
    rw [BitVec.xor_comm b, BitVec.xor_assoc, BitVec.xor_self, BitVec.xor_zero, hm, ← crcShifts_add]
    exact crcShifts_one_ne_zero hp _
  · exact fun h0 => hne (BitVec.xor_eq_zero_iff.1 h0).symm

end Sys2Proof.Machine
end

section
/-! Proofs for 44_messages_executor.md: the outcome of a message under any `MSG_TABLE` and under the default one, and the executor's
completion. -/

namespace Sys2Proof.Machine

/-! ### The outcome of a message by its bytes (R192) -/

section
variable {i : Instr} {op : Byte} {payload : List Byte} {s : State}

/-- A message's meaning is the classification of its opcode and its length. -/
theorem exec_of_message_bytes (hport : i.port = .message) (henc : encode i = op :: payload) (s : State) :
    exec i s = .next (classify op (payload.length + 1) s) := by
  cases i with
  | msgDfu | msgWritePage | msgActivateLayout | msgDeactivateLayout | msgUnknown => cases henc; rfl
  | _ => cases hport

theorem exec_message_of_unlisted (hport : i.port = .message) (henc : encode i = op :: payload)
    (ht : tableLength s.params.msgTable op = none) : exec i s = .next { s with rxState := .idle, rxLast := 0x08#8 } :=
  (exec_of_message_bytes hport henc s).trans (congrArg _ (classify_of_unlisted _ ht))

theorem exec_message_of_other_length {n : Nat} (hport : i.port = .message) (henc : encode i = op :: payload)
    (ht : tableLength s.params.msgTable op = some n) (hne : payload.length + 1 ≠ n) :
    exec i s = .next { s with rxState := .idle, rxLast := 0x06#8 } :=
  (exec_of_message_bytes hport henc s).trans (congrArg _ (classify_of_other_length ht hne))

theorem exec_message_of_legal (hport : i.port = .message) (henc : encode i = op :: payload)
    (ht : tableLength s.params.msgTable op = some (payload.length + 1)) :
    exec i s = .next { s with rxState := .executing, rxBusyHit := false } :=
  (exec_of_message_bytes hport henc s).trans (congrArg _ (classify_of_legal ht))

end

/-- Settles O31: each constructor's bytes are the opcode and the payload, and these are what is classified. -/
theorem messageIsClassified : Obligations.MessageIsClassified := by
  intro s payload op i hi
  obtain ⟨hport, henc⟩ : i.port = .message ∧ encode i = op :: payload := by
    rcases hi with ⟨rfl, rfl⟩ | ⟨rfl, rfl⟩ | ⟨rfl, rfl⟩ | ⟨rfl, rfl⟩ | rfl <;> exact ⟨rfl, rfl⟩
  exact ⟨exec_message_of_unlisted hport henc, fun _ => exec_message_of_other_length hport henc, exec_message_of_legal hport henc⟩

/-! ### The default `MSG_TABLE` (R13, R197 to R200) -/

/-- Dfu, ActivateLayout and DeactivateLayout have opcodes of length 1 in the default table. -/
theorem oneByteMessage_listed {i : Instr} {payload : List Byte}
    (hi : i ∈ [Instr.msgDfu payload, .msgActivateLayout payload, .msgDeactivateLayout payload]) :
    ∃ op, i.port = .message ∧ encode i = op :: payload ∧ tableLength defaultMsgTable op = some 1 := by
  simp only [List.mem_cons, List.not_mem_nil, or_false] at hi
  rcases hi with rfl | rfl | rfl
  · exact ⟨0x00#8, rfl, rfl, rfl⟩
  · exact ⟨0x02#8, rfl, rfl, rfl⟩
  · exact ⟨0x03#8, rfl, rfl, rfl⟩

/-- The default table lists no opcode from 4 up. -/
theorem tableLength_default_eq_none {op : Byte} (h : 0x04 ≤ op.toNat) : tableLength defaultMsgTable op = none := by
  have hne {k : Byte} (hk : k.toNat < 0x04) : k ≠ op := fun e => absurd h (Nat.not_le_of_lt (e ▸ hk))
  simp only [defaultMsgTable, tableLength, if_neg (hne (k := 0x00#8) (by decide)), if_neg (hne (k := 0x01#8) (by decide)),
    if_neg (hne (k := 0x02#8) (by decide)), if_neg (hne (k := 0x03#8) (by decide))]

/-- Settles O32: the encodings by the round trip, the outcomes by each opcode's row in the default table. -/
theorem defaultMessages : Obligations.DefaultMessages := by
  refine ⟨⟨Laws.RoundTrip.msgDfu [] rfl, Laws.RoundTrip.msgActivateLayout [] rfl, Laws.RoundTrip.msgDeactivateLayout [] rfl⟩,
    fun index page hpage => Laws.RoundTrip.msgWritePage (index :: page) (decide_eq_true ?_),
    fun s ht => ⟨fun i hi => ?_, fun payload hne i hi => ?_, fun payload => ?_, fun op payload hop => ?_⟩⟩
  · rw [List.length_cons, hpage]; decide
  · obtain ⟨op, hport, henc, hone⟩ := oneByteMessage_listed hi
    exact exec_message_of_legal hport henc (ht ▸ hone)
  · obtain ⟨op, hport, henc, hone⟩ := oneByteMessage_listed hi
    exact exec_message_of_other_length hport henc (ht ▸ hone) (fun h => hne (List.eq_nil_of_length_eq_zero (Nat.succ.inj h)))
  · have hrow : tableLength s.params.msgTable 0x01#8 = some 130 := ht ▸ rfl
    split_ifs with hlen
    · exact exec_message_of_legal rfl rfl (by rw [hrow, hlen])
    · exact exec_message_of_other_length rfl rfl hrow (fun h => hlen (Nat.succ.inj h))
  · exact exec_message_of_unlisted rfl rfl (ht ▸ tableLength_default_eq_none hop)

/-! ### The executor's completion (R194) -/

theorem executorStep_of_executing {s : State} (r : Byte) (hx : s.rxState = .executing) :
    executorStep r s = { s.rxRecord (completionStatus r s.rxBusyHit) with rxBusyHit := false } := if_pos hx

theorem executorStep_of_not_executing {s : State} (r : Byte) (hx : s.rxState ≠ .executing) : executorStep r s = s := if_neg hx

/-- Settles O42: the scheduled turn is the executor's, whose code is `completionStatus`. -/
theorem executorCompletes : Obligations.ExecutorCompletes := by
  refine ⟨fun s sched r hsched hx => ?_, fun s sched r hsched hx => ?_⟩
  · calc step s = .next (executorStep r { s with schedule := sched }) := step_cons hsched
      _ = _ := congrArg _ (executorStep_of_executing (s := { s with schedule := sched }) r hx)
  · calc step s = .next (executorStep r { s with schedule := sched }) := step_cons hsched
      _ = _ := congrArg _ (executorStep_of_not_executing (s := { s with schedule := sched }) r hx)

end Sys2Proof.Machine
end

section
/-! Proofs for 60_exceptions.md: every instruction completes, and which turns can be refused. -/

namespace Sys2Proof.Machine

/-! ### Every instruction completes (R210) -/

/-- Every command answers a next state: it is accepted in `TX_IDLE` and held elsewhere (R121). -/
theorem exec_command_next {i : Instr} (hport : i.port = .command) (s : State) : ∃ t : State, exec i s = .next t := by
  by_cases hi : s.txState = .idle
  · cases i with
    | cmdPing => exact ⟨_, exec_cmdPing_of_idle hi⟩
    | cmdSend m => exact ⟨_, exec_cmdSend_of_idle m hi⟩
    | cmdReset => exact ⟨_, exec_cmdReset_of_idle hi⟩
    | cmdCrcClear => exact ⟨_, exec_cmdCrcClear_of_idle hi⟩
    | cmdCrcFeed b => exact ⟨_, exec_cmdCrcFeed_of_idle b hi⟩
    | cmdCrcRead => exact ⟨_, exec_cmdCrcRead_of_idle hi⟩
    | _ => cases hport
  · exact ⟨s, commandsHaveNoEffectWhileBusy i s hport hi⟩

/-- Every response answers a next state: it is taken in `TX_AWAIT` and left alone elsewhere (R130). -/
theorem exec_response_next {i : Instr} (hport : i.port = .inLink) (s : State) : ∃ t : State, exec i s = .next t := by
  by_cases ha : s.txState = .await
  · cases i with
    | resp byte0 status ignored => exact ⟨_, exec_resp_of_await byte0 status ignored ha⟩
    | respShort bytes => exact ⟨_, exec_respShort_of_await bytes ha⟩
    | _ => cases hport
  · cases i with
    | resp | respShort => exact ⟨s, if_neg ha⟩
    | _ => cases hport

/-- Every instruction answers a next state in every state, whichever port it arrives on. -/
theorem exec_total (i : Instr) (s : State) : ∃ t : State, exec i s = .next t := by
  cases hport : i.port with
  | outLink => exact exec_packet_next hport s
  | inLink => exact exec_response_next hport s
  | message =>
    obtain ⟨op, len, he⟩ := exec_of_message hport s
    exact ⟨_, he⟩
  | command => exact exec_command_next hport s

/-! ### Which turns can be refused (R210) -/

/-- The TX engine's turn completes: the response decoder rejects nothing. -/
theorem txTurn_total (s : State) : ∃ t, txTurn s = .next t := by
  cases hs : s.txState with
  | idle => exact ⟨s, by simp only [txTurn, hs]⟩
  | sending => exact ⟨_, txTurn_of_sending hs⟩
  | await =>
    cases hq : s.inq with
    | nil => exact ⟨s, txTurn_await_nil hs hq⟩
    | cons pkt rest => rw [txTurn_await_cons hs hq]; exact exec_total (decodeResponse pkt) _

/-- The RX engine's turn completes: the packet decoder rejects nothing (R84). -/
theorem rxTurn_total (s : State) : ∃ t, rxTurn s = .next t := by
  cases hq : s.outq with
  | nil => exact ⟨s, rxTurn_of_nil hq⟩
  | cons pkt rest => rw [rxTurn_cons hq]; exact exec_total (decodePacket pkt) _

/-- Only a turn that presents input is refused: the link's step, the executor's and hardware reset have no refusal at all (for the
link's, log 20), and the two engines complete. -/
theorem takeTurn_refused {u : Turn} {s : State} {r : Refusal} (h : takeTurn u s = .refused r) :
    u = .host ∨ ∃ pkt, u = .injectOut pkt ∨ u = .injectIn pkt := by
  cases u with
  | host => exact .inl rfl
  | injectOut pkt => exact .inr ⟨pkt, .inl rfl⟩
  | injectIn pkt => exact .inr ⟨pkt, .inr rfl⟩
  | tx => obtain ⟨t, ht⟩ := txTurn_total s; cases ht.symm.trans h
  | rx => obtain ⟨t, ht⟩ := rxTurn_total s; cases ht.symm.trans h
  | link | executor | hardwareReset => cases h

/-- A refused step is a refused turn: with no turn to take, the block is idle and all state persists (R229). -/
theorem step_refused {s : State} {r : Refusal} (h : step s = .refused r) :
    ∃ u, nextTurn s = some u ∧ takeTurn u { s with schedule := s.schedule.tail } = .refused r := by
  rw [step_eq] at h
  cases hn : nextTurn s with
  | none => rw [hn] at h; cases h
  | some u => rw [hn] at h; exact ⟨u, rfl, h⟩

/-- Settles O10: `exec_total`, and a refused step is a turn that `takeTurn_refused` says presents input. -/
theorem blockNeverStops : Obligations.BlockNeverStops := by
  refine ⟨exec_total, fun s r h => ?_⟩
  obtain ⟨u, hu, hr⟩ := step_refused h
  rw [hu]
  rcases takeTurn_refused hr with rfl | ⟨pkt, rfl | rfl⟩
  · exact .inl rfl
  · exact .inr ⟨pkt, .inl rfl⟩
  · exact .inr ⟨pkt, .inr rfl⟩

end Sys2Proof.Machine
end

section
/-! Proofs for 70_reset_and_hazards.md: hardware reset (R240), quiescence (R254), and two sides with different variants (R252). -/

namespace Sys2Proof.Machine

/-! ### Hardware reset (R240) -/

/-- Settles O45: a scheduled hardware reset turn is `hardwareReset`, which keeps nothing else than what log 8 names. -/
theorem hardwareResetRestores : Obligations.HardwareResetRestores := by
  intro s sched hsched
  have hstep : step s = .next (hardwareReset { s with schedule := sched }) := step_cons hsched
  exact ⟨hardwareReset { s with schedule := sched }, hstep, rfl, rfl⟩

/-! ### Quiescence (R254) -/

/-- In `TX_IDLE` the TX engine's turn holds. -/
theorem txTurn_of_idle {s : State} (hi : s.txState = .idle) : txTurn s = .next s := by
  simp only [txTurn, hi]

/-- In a quiescent state the turn of an agent of the block holds: each field of `Quiescent` disables one agent. -/
theorem takeTurn_of_quiescent {u : Turn} {s : State} (h : Quiescent s)
    (hu : u = .tx ∨ u = .rx ∨ u = .link ∨ ∃ r, u = .executor r) : takeTurn u s = .next s := by
  rcases hu with rfl | rfl | rfl | ⟨r, rfl⟩
  · exact txTurn_of_idle h.tx_idle
  · exact rxTurn_of_nil h.outq_empty
  · exact congrArg _ (linkStep_of_not_respValid h.no_response)
  · exact congrArg _ (executorStep_of_not_executing r h.not_executing)

/-- Moving the schedule on keeps a state quiescent. -/
theorem Quiescent.with_schedule {s : State} (h : Quiescent s) (sched : List Turn) : Quiescent { s with schedule := sched } :=
  ⟨h.tx_idle, h.not_executing, h.no_response, h.outq_empty, h.inq_empty⟩

/-- Settles O46: the step is the scheduled turn, which holds by `takeTurn_of_quiescent`. -/
theorem quiescentHasNoStep : Obligations.QuiescentHasNoStep :=
  fun _ sched _ h hsched hu => (step_cons hsched).trans (takeTurn_of_quiescent (h.with_schedule sched) hu)

/-! ### The CRC values of the vectors and of the mismatch example (V1, V2, R252) -/

theorem crc16_arc_03 : crc16 CrcVariant.arc [0x03#8] = 0x0140#16 := by decide +kernel

theorem crc16_modbus_03 : crc16 ⟨0x8005#16, 0xFFFF#16, true, true, 0x0000#16⟩ [0x03#8] = 0x41FF#16 := by decide +kernel

/-- Settles O18: each value is evaluated by R100's function. -/
theorem crcVectors : Obligations.CrcVectors :=
  ⟨by decide +kernel, by decide +kernel, by decide +kernel, crc16_arc_03, crc16_modbus_03⟩

/-! ### Different variants on the two sides (R252) -/

/-- A Start that carries its whole message ends, outside execution, in what R160 and R192 give that message. -/
theorem exec_pktStart_of_whole {s : State} {totalLen op : Byte} {payload : List Byte} (crc : Word) (hx : s.rxState ≠ .executing)
    (hlen : totalLen.toNat = payload.length + 1) :
    exec (.pktStart totalLen crc (op :: payload)) s =
      .next ((acceptStart totalLen crc (op :: payload) s).judged op payload) := by
  have hle : totalLen.toNat ≤ (op :: payload).length := hlen.le
  have h0 : totalLen ≠ 0x00#8 := fun e => by rw [e] at hlen; cases hlen
  have hwhole : (acceptStart totalLen crc (op :: payload) s).rxCount = (acceptStart totalLen crc (op :: payload) s).rxTotal.toNat := by
    rw [acceptStart_eq]; exact Nat.min_eq_right hle
  have hmsg : rxMessage (acceptStart totalLen crc (op :: payload) s) = op :: payload :=
    (acceptStart_rxMessage hle).trans (List.take_of_length_le hlen.ge)
  rw [exec_pktStart_of_legal crc _ hx h0]
  exact completeIfWhole_of_message hwhole hmsg

/-- R252's packet, taken under another variant than it was stamped with, fails the CRC check. -/
theorem exec_mismatchExample {s : State} (hx : s.rxState ≠ .executing)
    (hv : s.params.rxCrc = ⟨0x8005#16, 0xFFFF#16, true, true, 0x0000#16⟩) :
    exec (.pktStart 0x01#8 0x0140#16 [0x03#8]) s = .next ((acceptStart 0x01#8 0x0140#16 [0x03#8] s).rxRecord stCrcError) := by
  have hne : crc16 s.params.rxCrc [0x03#8] ≠ 0x0140#16 := by rw [hv, crc16_modbus_03]; decide
  exact (exec_pktStart_of_whole 0x0140#16 hx rfl).trans (congrArg _ (judged_of_mismatch hne))

/-- Taken under the variant it was stamped with, it is a legal message of the default table. -/
theorem exec_matchExample {s : State} (hx : s.rxState ≠ .executing) (hv : s.params.rxCrc = CrcVariant.arc)
    (ht : s.params.msgTable = defaultMsgTable) :
    exec (.pktStart 0x01#8 0x0140#16 [0x03#8]) s = .next (acceptStart 0x01#8 0x0140#16 [0x03#8] s).startExecuting := by
  have hcrc : crc16 s.params.rxCrc [0x03#8] = 0x0140#16 := by rw [hv, crc16_arc_03]
  have hrow : tableLength s.params.msgTable 0x03#8 = some 1 := ht ▸ rfl
  exact (exec_pktStart_of_whole 0x0140#16 hx rfl).trans
    (congrArg _ ((judged_of_match hcrc).trans (classify_of_legal hrow)))

/-- Settles O40: the run of O26 puts the message's packets on `OUTQ`, and from there the run of O39 gives the outcome; the example's
packet carries its whole message. -/
theorem sentMessagePassesOnlyWhereVariantsAgree : Obligations.SentMessagePassesOnlyWhereVariantsAgree := by
  refine ⟨fun s op payload rest sched hi hx hout hm hp hq hsched => ?_, crc16_arc_03,
    fun s hx hv => ⟨_, exec_mismatchExample hx hv, rfl, rfl⟩, fun s hx hv ht => ⟨_, exec_matchExample hx hv ht, ?_⟩⟩
  · obtain ⟨u, hsend, hu, -⟩ := sendEmitsFrames s (op :: payload) rest _ hi (Nat.succ_pos _) hm hp hq hsched
    have hparams : u.params = s.params := by rw [hu]
    have hrx : u.rxState = s.rxState := by rw [hu]
    have hsent : u.txState = .idle ∧ u.txErr = .none := by rw [hu]; exact ⟨hi, rfl⟩
    have houtq : u.outq = frames s.params (op :: payload) ++ [] := by rw [hu, hout, List.nil_append, List.append_nil]
    have hturns : u.schedule = List.replicate (1 + contFrameCount s.params.p (op :: payload)) .rx ++ sched := by rw [hu]
    have hreceive := reassemblyRebuildsMessage u op payload [] sched
    rw [hparams, hrx] at hreceive
    obtain ⟨t, hrun, ht, -, hmsg, hmismatch, hmatch, -⟩ := hreceive hx hm hp houtq hturns
    refine ⟨t, ?_, ?_, ?_, ?_, hmsg, fun hne => ?_, fun heq => ?_⟩
    · have hsteps (n : Nat) : 3 + 2 * n = (2 + n) + (1 + n) := by omega
      rw [hsteps, run_add _ hsend, hrun]
    · rw [ht]; exact hsent.1
    · rw [ht]; exact hsent.2
    · rw [ht]
    · obtain ⟨hidle, hlast, -⟩ := hmismatch hne
      exact ⟨hidle, hlast⟩
    · obtain ⟨hunlisted, hother, hlegal⟩ := hmatch heq
      refine ⟨fun hrow => ?_, fun hrow => ?_⟩
      · obtain ⟨hexec, -, -, hport⟩ := hlegal hrow
        exact ⟨hexec, hport⟩
      · cases hlen : tableLength s.params.msgTable op with
        | none =>
          obtain ⟨hidle, hlast, -⟩ := hunlisted hlen
          exact ⟨hidle, .inr hlast⟩
        | some n =>
          obtain ⟨hidle, hlast, -⟩ := hother n hlen fun e => hrow (e ▸ hlen)
          exact ⟨hidle, .inl hlast⟩
  · exact (executorPort_startExecuting _).trans (congrArg some (acceptStart_rxMessage le_rfl))

end Sys2Proof.Machine
end

section
/-! Proofs for 30_encoding.md, the encoder's side: an instruction's bytes decode to it on its own port (R72 to R85). -/

namespace Sys2Proof

/-- Settles O1: one round trip for each constructor. START needs the CRC's two bytes put together again; START_SHORT, UNASSIGNED, the
short response and the messages need their well-formedness. -/
theorem decodeOfEncodeGivesInstr : Obligations.DecodeOfEncodeGivesInstr := by
  intro i
  cases i with
  | pktPing ignored => exact Laws.RoundTrip.pktPing ignored
  | pktStart totalLen crc chunk => exact Laws.RoundTrip.pktStart totalLen crc chunk
  | pktStartShort rest => exact Laws.RoundTrip.pktStartShort rest
  | pktCont chunk => exact Laws.RoundTrip.pktCont chunk
  | pktReset ignored => exact Laws.RoundTrip.pktReset ignored
  | pktUnassigned opcode payload => exact Laws.RoundTrip.pktUnassigned opcode payload
  | pktEmpty => exact Laws.RoundTrip.pktEmpty
  | resp byte0 status ignored => exact Laws.RoundTrip.resp byte0 status ignored
  | respShort bytes => exact Laws.RoundTrip.respShort bytes
  | msgDfu payload => exact Laws.RoundTrip.msgDfu payload
  | msgWritePage payload => exact Laws.RoundTrip.msgWritePage payload
  | msgActivateLayout payload => exact Laws.RoundTrip.msgActivateLayout payload
  | msgDeactivateLayout payload => exact Laws.RoundTrip.msgDeactivateLayout payload
  | msgUnknown opcode payload => exact Laws.RoundTrip.msgUnknown opcode payload
  | cmdPing | cmdSend | cmdReset | cmdCrcClear | cmdCrcFeed | cmdCrcRead => exact fun _ => Machine.decode_encode_of_command rfl

/-- Settles O4: each word is the encoding of the instruction named, which is well-formed, so O1 reads it back. -/
theorem specWordsDecode : Obligations.SpecWordsDecode :=
  ⟨decodeOfEncodeGivesInstr (.pktStart 0x01#8 0x0140#16 [0x03#8]) rfl,
    decodeOfEncodeGivesInstr (.pktStartShort [0x05#8]) rfl,
    decodeOfEncodeGivesInstr (.pktCont [0xAA#8]) rfl,
    decodeOfEncodeGivesInstr (.pktReset []) rfl,
    decodeOfEncodeGivesInstr (.pktUnassigned 0x01#8 [0x00#8]) rfl,
    decodeOfEncodeGivesInstr (.resp 0x00#8 0x04#8 []) rfl,
    decodeOfEncodeGivesInstr (.msgDeactivateLayout []) rfl,
    decodeOfEncodeGivesInstr (.msgUnknown 0x04#8 []) rfl,
    decodeOfEncodeGivesInstr (.cmdSend [0x03#8]) rfl,
    decodeOfEncodeGivesInstr (.cmdCrcFeed 0x31#8) rfl⟩

end Sys2Proof
end
